-- ==== Sys2Proof/Word.lean ====
section
/-! DEFINITION. The value types of the block: bytes, 16-bit values and byte strings (R11, R13). -/

namespace Sys2Proof

/-- `u8` of R11: an unsigned integer in 0..255, bit 0 least significant (R12). -/
abbrev Byte := BitVec 8

/-- `u16` of R11: a command word (R80) or a checksum (R32). -/
abbrev Word := BitVec 16

/-- A byte string (R13): byte 0 is the first byte handed to or taken from the transport. -/
abbrev Bytes := List Byte

end Sys2Proof
end

