-- ==== Sys2Proof/Config.lean ====
section
/-! DEFINITION. The constants of R6 and R7 and the parameters of R8: what is fixed before reset and never
changes while the instance exists (R30). -/

namespace Sys2Proof

/-- `SEQ_MOD` (R6). -/
abbrev seqModulus : Nat := 64
/-- `MAXL` (R6). -/
abbrev maxBody : Nat := 250
/-- `HDR_LEN` (R6). -/
abbrev headerLength : Nat := 4
/-- `TRL_LEN` (R6). -/
abbrev trailerLength : Nat := 3
/-- `OPT_LEN` (R6). -/
abbrev optionLength : Nat := 11
/-- `LEN_ADJ` (R6). -/
abbrev lengthAdjust : Nat := 2
/-- `CRC_LEN` (R6). -/
abbrev checksumLength : Nat := 2
/-- `MIN_FRAME` (R7): 7. -/
abbrev minFrame : Nat := headerLength + trailerLength
/-- `MAX_FRAME` (R7): 257. -/
abbrev maxFrame : Nat := headerLength + maxBody + trailerLength
/-- `MAX_LEN_FIELD` (R7): 255. -/
abbrev maxLengthField : Nat := maxFrame - lengthAdjust
/-- `MAX_SPAN` (R7): 254. -/
abbrev maxSpan : Nat := headerLength + maxBody
/-- The greatest operand length the host can state (R32). -/
abbrev maxOperand : Nat := 65535

/-- Which function `crc16` is (R8, R150). The spec leaves it open; it names one default (R153) and two
alternatives (R157), and asks that a claim hold for any function otherwise (U1). -/
inductive CrcChoice where
  /-- `CRC16_DEFAULT` (R153). -/
  | ccittDefault
  /-- `CRC16_FALSE` (R157). -/
  | ccittFalse
  /-- `CRC16_KERMIT` (R157). -/
  | kermit
  /-- Black-box function number `n` (R5, R150): nothing is known of it but that it is a function. -/
  | external (n : Nat)
deriving DecidableEq, Repr

/-- The parameters of one instance (R8, R30), as plain data. -/
structure Config where
  /-- `START_MARK` (R8, R63). -/
  startMark : Byte
  /-- `END_MARK` (R8, R68). -/
  endMark : Byte
  /-- `crc16` (R8, R150), by name. -/
  crc : CrcChoice
deriving DecidableEq, Repr

/-- The black-box checksum functions: uninterpreted, so that what is proved of a state whose `crc` is
`external n` holds whatever function `crc16` is (R150; log entry 4). -/
opaque Config.externalCrc16 : Nat → Bytes → Word

end Sys2Proof
end

