-- ==== Sys2Proof/Syntax.lean ====
section
/-! DEFINITION. The instructions (one constructor per row of spec/opcode_table.json), the seven frame types,
and what the host hands to the block: commands, messages and reset. -/

namespace Sys2Proof

/-- The seven frame types (R66), by the source's variant names (R81). -/
inductive FrameType where
  /-- `S`, "capability negotiation (init)". -/
  | negotiate
  /-- `F`, "file header". -/
  | fileHeader
  /-- `D`, "data chunk". -/
  | data
  /-- `Z`, "end-of-file marker". -/
  | endOfFile
  /-- `B`, "end-of-transmission marker". -/
  | endOfTransmission
  /-- `Y`, "acknowledge". -/
  | ack
  /-- `N`, "negative-acknowledge". -/
  | nak
deriving DecidableEq, Repr

/-- One constructor per row of the opcode table. The eleven commands carry the operands of R83. A FRAME row
(R79, R125 to R131) carries the message it decodes: its header bytes 0 to 2 (`mark`, `lenf`, `rseq`; byte 3
is the type code the row itself fixes) and `rest`, the bytes after the header (body and trailer). -/
inductive Instr where
  /-- `ENC.S` (R102). -/
  | encS (seq : Byte) (body : Bytes)
  /-- `ENC.F` (R103). -/
  | encF (seq : Byte) (body : Bytes)
  /-- `ENC.D` (R104). -/
  | encD (seq : Byte) (body : Bytes)
  /-- `ENC.Z` (R105). -/
  | encZ (seq : Byte) (body : Bytes)
  /-- `ENC.B` (R106). -/
  | encB (seq : Byte) (body : Bytes)
  /-- `ENC.Y` (R107). -/
  | encY (seq : Byte) (body : Bytes)
  /-- `ENC.N` (R108). -/
  | encN (seq : Byte) (body : Bytes)
  /-- `DEC` (R121). -/
  | dec (msg : Bytes)
  /-- `CRC` (R152). -/
  | crc (msg : Bytes)
  /-- `SEQ.NEXT` (R171). -/
  | seqNext
  /-- `SEQ.READ` (R172). -/
  | seqRead
  /-- `FRAME.S` (R125). -/
  | frameS (mark lenf rseq : Byte) (rest : Bytes)
  /-- `FRAME.F` (R126). -/
  | frameF (mark lenf rseq : Byte) (rest : Bytes)
  /-- `FRAME.D` (R127). -/
  | frameD (mark lenf rseq : Byte) (rest : Bytes)
  /-- `FRAME.Z` (R128). -/
  | frameZ (mark lenf rseq : Byte) (rest : Bytes)
  /-- `FRAME.B` (R129). -/
  | frameB (mark lenf rseq : Byte) (rest : Bytes)
  /-- `FRAME.Y` (R130). -/
  | frameY (mark lenf rseq : Byte) (rest : Bytes)
  /-- `FRAME.N` (R131). -/
  | frameN (mark lenf rseq : Byte) (rest : Bytes)
deriving DecidableEq, Repr

/-- A command (R15): the command word (R80) and the operand lines (R32). A command reads the operands its
rule names (R83) and no other; the rest are left at zero and empty (log entry 5). -/
structure Command where
  /-- `cmd`, the command word. -/
  word : Word
  /-- `seq`, named by `ENC.*`. -/
  seq : Byte := 0
  /-- `body`, named by `ENC.*`. -/
  body : Bytes := []
  /-- `msg`, named by `DEC` and `CRC`. -/
  msg : Bytes := []
deriving DecidableEq, Repr

/-- What the host hands to the block for one answer. -/
inductive Request where
  /-- A command, selected by its command word (R80, R81). -/
  | command (c : Command)
  /-- A message of the transport, selected by its header word `H32` (R79). It is answered as `DEC` of the
  message is (log entry 6). -/
  | message (msg : Bytes)
deriving DecidableEq, Repr

/-- What can happen to an instance between two commands: the host issues a request, or reset (R211, R212). -/
inductive Event where
  | reset
  | request (r : Request)
deriving DecidableEq, Repr

end Sys2Proof
end

