-- ==== Sys2Proof/WellFormed.lean ====
section
/-! DEFINITION. Which operands the interface can form: byte strings of at most 65535 bytes (R32, U20). -/

namespace Sys2Proof

/-- A byte-string operand whose length the host can state (R32). -/
abbrev formableBytes (b : Bytes) : Bool := b.length ≤ maxOperand

/-- A request the interface can form (R32, U20): every byte string in it is at most 65535 bytes long. -/
def Request.formable : Request → Bool
  | .command c => formableBytes c.body && formableBytes c.msg
  | .message m => formableBytes m

/-- A well-formed instruction: its byte-string operand can be formed (R32). A FRAME row's operand is the whole
message, four header bytes and the rest. -/
def Instr.wf : Instr → Bool
  | .encS _ body => formableBytes body
  | .encF _ body => formableBytes body
  | .encD _ body => formableBytes body
  | .encZ _ body => formableBytes body
  | .encB _ body => formableBytes body
  | .encY _ body => formableBytes body
  | .encN _ body => formableBytes body
  | .dec msg => formableBytes msg
  | .crc msg => formableBytes msg
  | .seqNext => true
  | .seqRead => true
  | .frameS _ _ _ rest => decide (headerLength + rest.length ≤ maxOperand)
  | .frameF _ _ _ rest => decide (headerLength + rest.length ≤ maxOperand)
  | .frameD _ _ _ rest => decide (headerLength + rest.length ≤ maxOperand)
  | .frameZ _ _ _ rest => decide (headerLength + rest.length ≤ maxOperand)
  | .frameB _ _ _ rest => decide (headerLength + rest.length ≤ maxOperand)
  | .frameY _ _ _ rest => decide (headerLength + rest.length ≤ maxOperand)
  | .frameN _ _ _ rest => decide (headerLength + rest.length ≤ maxOperand)

end Sys2Proof
end

