-- ==== Sys2Proof/Decode.lean ====
section
/-! DEFINITION. Decoding a request to an instruction, total, rejecting by name (R79 to R82), and the encoder
written from the same tables of the spec. -/

namespace Sys2Proof

/-- The numeric code of a type tag (R66). -/
def typeCode : FrameType → Byte
  | .negotiate => 0x53#8
  | .fileHeader => 0x46#8
  | .data => 0x44#8
  | .endOfFile => 0x5A#8
  | .endOfTransmission => 0x42#8
  | .ack => 0x59#8
  | .nak => 0x4E#8

/-- The frame type a type byte names, if it is one of the seven codes of R66. Any other byte, the lower-case
letters among them, names none (R77). -/
def typeOfCode (b : Byte) : Option FrameType :=
  if b = 0x53#8 then some .negotiate
  else if b = 0x46#8 then some .fileHeader
  else if b = 0x44#8 then some .data
  else if b = 0x5A#8 then some .endOfFile
  else if b = 0x42#8 then some .endOfTransmission
  else if b = 0x59#8 then some .ack
  else if b = 0x4E#8 then some .nak
  else none

/-- The `ENC` command of a frame type (R81). -/
def encInstr (t : FrameType) (seq : Byte) (body : Bytes) : Instr :=
  match t with
  | .negotiate => .encS seq body
  | .fileHeader => .encF seq body
  | .data => .encD seq body
  | .endOfFile => .encZ seq body
  | .endOfTransmission => .encB seq body
  | .ack => .encY seq body
  | .nak => .encN seq body

/-- The FRAME row of a frame type (R79). -/
def frameInstr (t : FrameType) (mark lenf rseq : Byte) (rest : Bytes) : Instr :=
  match t with
  | .negotiate => .frameS mark lenf rseq rest
  | .fileHeader => .frameF mark lenf rseq rest
  | .data => .frameD mark lenf rseq rest
  | .endOfFile => .frameZ mark lenf rseq rest
  | .endOfTransmission => .frameB mark lenf rseq rest
  | .ack => .frameY mark lenf rseq rest
  | .nak => .frameN mark lenf rseq rest

/-- Bits 15:8 of a command word (R80). -/
def opField (w : Word) : Byte := w.extractLsb' 8 8

/-- Bits 7:0 of a command word (R80). -/
def argField (w : Word) : Byte := w.extractLsb' 0 8

/-- A command word from its two fields (R80). -/
def commandWord (op arg : Byte) : Word := op ++ arg

/-- Why a request is not an instruction of the table. None of these stops the machine: each is answered. -/
inductive Rejection where
  /-- A reserved command word (R82 a, b): answered `ILLEGAL_CMD`. -/
  | illegalCmd
  /-- `op = 0x01` with an `arg` that is no type code (R82 c): answered `BAD_TYPE`. -/
  | unknownTag
  /-- A message without a header, or whose type byte is none of the seven (R77): answered by R120. -/
  | noFrameRow
deriving DecidableEq, Repr

/-- What the decoder reads. -/
inductive Decoded where
  | instr (i : Instr)
  | rejected (why : Rejection)
deriving DecidableEq, Repr

/-- Operation codes `0x02` to `0x05` need `arg = 0x00` (R80, R82 b). -/
def decodePlain (arg : Byte) (i : Instr) : Decoded :=
  if arg = 0x00#8 then .instr i else .rejected .illegalCmd

/-- Decode a command by its command word (R81, R82). -/
def decodeCommand (c : Command) : Decoded :=
  if opField c.word = 0x01#8 then
    match typeOfCode (argField c.word) with
    | some t => .instr (encInstr t c.seq c.body)
    | none => .rejected .unknownTag
  else if opField c.word = 0x02#8 then decodePlain (argField c.word) (.dec c.msg)
  else if opField c.word = 0x03#8 then decodePlain (argField c.word) (.crc c.msg)
  else if opField c.word = 0x04#8 then decodePlain (argField c.word) .seqNext
  else if opField c.word = 0x05#8 then decodePlain (argField c.word) .seqRead
  else .rejected .illegalCmd

/-- Decode a message by its header: the type byte alone selects the FRAME row (R79). -/
def decodeMessage (m : Bytes) : Decoded :=
  match m with
  | mark :: lenf :: rseq :: code :: rest =>
    match typeOfCode code with
    | some t => .instr (frameInstr t mark lenf rseq rest)
    | none => .rejected .noFrameRow
  | _ => .rejected .noFrameRow

/-- Decode a request. -/
def decodeRequest : Request → Decoded
  | .command c => decodeCommand c
  | .message m => decodeMessage m

/-- The bytes of the message a FRAME row decodes. -/
def frameMessage (t : FrameType) (mark lenf rseq : Byte) (rest : Bytes) : Bytes :=
  mark :: lenf :: rseq :: typeCode t :: rest

/-- The request of an instruction: its command word by R81 and its operands, or its message. -/
def encodeInstr : Instr → Request
  | .encS seq body => .command ⟨0x0153#16, seq, body, []⟩
  | .encF seq body => .command ⟨0x0146#16, seq, body, []⟩
  | .encD seq body => .command ⟨0x0144#16, seq, body, []⟩
  | .encZ seq body => .command ⟨0x015A#16, seq, body, []⟩
  | .encB seq body => .command ⟨0x0142#16, seq, body, []⟩
  | .encY seq body => .command ⟨0x0159#16, seq, body, []⟩
  | .encN seq body => .command ⟨0x014E#16, seq, body, []⟩
  | .dec msg => .command ⟨0x0200#16, 0, [], msg⟩
  | .crc msg => .command ⟨0x0300#16, 0, [], msg⟩
  | .seqNext => .command ⟨0x0400#16, 0, [], []⟩
  | .seqRead => .command ⟨0x0500#16, 0, [], []⟩
  | .frameS mark lenf rseq rest => .message (mark :: lenf :: rseq :: 0x53#8 :: rest)
  | .frameF mark lenf rseq rest => .message (mark :: lenf :: rseq :: 0x46#8 :: rest)
  | .frameD mark lenf rseq rest => .message (mark :: lenf :: rseq :: 0x44#8 :: rest)
  | .frameZ mark lenf rseq rest => .message (mark :: lenf :: rseq :: 0x5A#8 :: rest)
  | .frameB mark lenf rseq rest => .message (mark :: lenf :: rseq :: 0x42#8 :: rest)
  | .frameY mark lenf rseq rest => .message (mark :: lenf :: rseq :: 0x59#8 :: rest)
  | .frameN mark lenf rseq rest => .message (mark :: lenf :: rseq :: 0x4E#8 :: rest)

/-- A command with the operands its word does not name (R83) cleared. -/
def canonicalCommand (c : Command) : Command :=
  if opField c.word = 0x01#8 then { c with msg := [] }
  else if opField c.word = 0x02#8 ∨ opField c.word = 0x03#8 then { c with seq := 0, body := [] }
  else { c with seq := 0, body := [], msg := [] }

/-- A request with the operands its command word does not name cleared. -/
def canonicalRequest : Request → Request
  | .command c => .command (canonicalCommand c)
  | .message m => .message m

/-- The header word `H32` of R79, byte 0 in bits 31:24. A way of writing the table: no command computes it. -/
def headerWord (mark lenf rseq code : Byte) : BitVec 32 := mark ++ lenf ++ rseq ++ code

/-- The byte of a number at bits `8*k+7 : 8*k`. -/
def byteOfNat (w k : Nat) : Byte := BitVec.ofNat 8 (w >>> (8 * k))

/-- The request that the word `w` of a table row stands for, operands at zero: a row of 16 bits is a command
word (`CMD16`, R80) with empty operands; any other row is a header word (`H32`, R79), the message being its
four bytes, byte 0 in bits 31:24, and a trailer of three zero bytes (log entry 7). -/
def tableRequest (nbits w : Nat) : Request :=
  if nbits = 16 then .command { word := BitVec.ofNat 16 w }
  else .message [byteOfNat w 3, byteOfNat w 2, byteOfNat w 1, byteOfNat w 0, 0#8, 0#8, 0#8]

/-- The instruction a decoding holds, if any. -/
def Decoded.instr? : Decoded → Option Instr
  | .instr i => some i
  | .rejected _ => none

/-- The instruction the decoder reads from a table row's word. -/
def decodeTableWord (nbits w : Nat) : Option Instr := (decodeRequest (tableRequest nbits w)).instr?

end Sys2Proof
end

