-- ==== Sys2Proof/Machine/Operands.lean ====
section
/-! DEFINITION. The operand forms: bytes and slices of a byte string, the two bytes of a checksum, the
reduction of a sequence number, the shape of a body and the fields of a message (R12, R13, R43, R62, R67). -/

namespace Sys2Proof.Machine

/-- `lo8(v) = v[7:0]` (R12). -/
def lo8 (v : Word) : Byte := v.extractLsb' 0 8

/-- `hi8(v) = v[15:8]` (R12). -/
def hi8 (v : Word) : Byte := v.extractLsb' 8 8

/-- A 16-bit value stored low byte first (R43): `lo or (hi << 8)`. -/
def ofLoHi (lo hi : Byte) : Word := hi ++ lo

/-- `s[i]` (R13). Every use is at an offset below `len(s)`; elsewhere it is 0 and nothing reads it. -/
def byteAt (s : Bytes) (i : Nat) : Byte := s.getD i 0

/-- `s[i .. i+n-1]` (R13): `n` bytes from offset `i`, `[]` when `n = 0`. -/
def slice (s : Bytes) (i n : Nat) : Bytes := (s.drop i).take n

/-- `seq mod 64` (R65, R100), for any byte. -/
def reduceSeq (seq : Byte) : Byte := BitVec.ofNat 8 (seq.toNat % seqModulus)

/-- `shape_ok(t, b)` for a known type (R67): the body length the type admits. -/
def shapeOk (t : FrameType) (b : Nat) : Bool :=
  match t with
  | .negotiate => b == optionLength
  | .fileHeader => decide (b ≤ maxBody)
  | .data => decide (b ≤ maxBody)
  | .endOfFile => b == 0
  | .endOfTransmission => b == 0
  | .ack => b == 0
  | .nak => b == 0

/-- The span a checksum covers: header and body, everything before the trailer (R69, R75, R151). -/
def spanOf (msg : Bytes) : Bytes := slice msg 0 (msg.length - trailerLength)

/-- The body: what lies between the 4-byte header and the 3-byte trailer (R75). -/
def bodyOf (msg : Bytes) : Bytes := slice msg headerLength (msg.length - minFrame)

/-- The checksum found in the trailer, low byte first (R43, R120). -/
def trailerCrc (msg : Bytes) : Word :=
  ofLoHi (byteAt msg (msg.length - 3)) (byteAt msg (msg.length - 2))

end Sys2Proof.Machine
end

