-- ==== Sys2Proof/Machine/Crc.lean ====
section
/-! DEFINITION. The checksum functions (R150 to R157) and the named properties of R155. -/

namespace Sys2Proof.Machine

/-- One shift of the register, most significant bit first, with polynomial `0x1021` (R153). -/
def shiftMsb (c : Word) : Word := if c.msb then (c <<< 1) ^^^ 0x1021#16 else c <<< 1

/-- One byte, most significant bit first (R153): the byte into the top of the register, then 8 shifts. -/
def byteMsb (c : Word) (b : Byte) : Word := shiftMsb^[8] (c ^^^ (b.setWidth 16 <<< 8))

/-- The unreflected checksum from an initial value (R153, R157). -/
def crcMsbFrom (init : Word) (s : Bytes) : Word := s.foldl byteMsb init

/-- `CRC16_DEFAULT` (R153). -/
def crc16Default (s : Bytes) : Word := crcMsbFrom 0x0000#16 s

/-- `CRC16_FALSE` (R157): as `CRC16_DEFAULT` with initial value `0xFFFF`. -/
def crc16False (s : Bytes) : Word := crcMsbFrom 0xFFFF#16 s

/-- One shift of the reflected register (R157): shift right, polynomial written `0x8408`. -/
def shiftLsb (c : Word) : Word := if c.getLsbD 0 then (c >>> 1) ^^^ 0x8408#16 else c >>> 1

/-- One byte of the reflected form (R157). -/
def byteLsb (c : Word) (b : Byte) : Word := shiftLsb^[8] (c ^^^ b.setWidth 16)

/-- `CRC16_KERMIT` (R157). -/
def crc16Kermit (s : Bytes) : Word := s.foldl byteLsb 0x0000#16

/-- The table entry `T[i] = CRC16_DEFAULT([i])` of R154. -/
def crcTableEntry (i : Byte) : Word := crc16Default [i]

/-- One byte of the table form (R154). -/
def byteByTable (c : Word) (b : Byte) : Word :=
  (c <<< 8) ^^^ crcTableEntry ((c >>> 8).setWidth 8 ^^^ b)

/-- The byte-at-a-time form of `CRC16_DEFAULT` (R154). R153 is the definition; this is a faster form. -/
def crc16ByTable (s : Bytes) : Word := s.foldl byteByTable 0x0000#16

/-- The function a choice names (R8, R150). -/
def crcFunction : CrcChoice → Bytes → Word
  | .ccittDefault => crc16Default
  | .ccittFalse => crc16False
  | .kermit => crc16Kermit
  | .external n => Config.externalCrc16 n

/-- `s` with bit `k` of byte `i` inverted (R134). -/
def flipBit (s : Bytes) (i k : Nat) : Bytes := s.set i (s.getD i 0 ^^^ (1#8 <<< k))

/-- `detects_single_bit` (R155 a): strings of equal length that differ in exactly one bit have different
checksums. -/
def DetectsSingleBit (f : Bytes → Word) : Prop :=
  ∀ (s : Bytes) (i k : Nat), i < s.length → k < 8 → f (flipBit s i k) ≠ f s

/-- The exclusive-or of byte strings taken byte by byte (R155 b). -/
def xorBytes (s s' : Bytes) : Bytes := List.zipWith (· ^^^ ·) s s'

/-- `xor_linear` (R155 b). -/
def XorLinear (f : Bytes → Word) : Prop :=
  ∀ s s' : Bytes, s.length = s'.length → f (xorBytes s s') = f s ^^^ f s'

/-- `leading_zero_blind` (R155 c), both halves. -/
def LeadingZeroBlind (f : Bytes → Word) : Prop :=
  (∀ s : Bytes, f (0#8 :: s) = f s) ∧ ∀ n : Nat, f (List.replicate n 0#8) = 0x0000#16

/-- `residue_zero` (R155 d): the checksum appended high byte first leaves zero. -/
def ResidueZero (f : Bytes → Word) : Prop :=
  ∀ s : Bytes, f (s ++ [(f s).extractLsb' 8 8, (f s).extractLsb' 0 8]) = 0x0000#16

end Sys2Proof.Machine
end

