-- ==== Sys2Proof/Machine/Params.lean ====
section
/-! DEFINITION. The parameters as the operations take them (R8), and the spec's defaults (D5, D6, D7). -/

namespace Sys2Proof.Machine

/-- The three open parameters of R8. `crc16` is any function from byte strings to 16-bit values (R150). The
operations of the codec are functions of these; the state holds only the plain data that names them. -/
structure Params where
  startMark : Byte
  endMark : Byte
  crc16 : Bytes → Word

/-- The parameters a configuration names. -/
def paramsOf (c : Config) : Params := ⟨c.startMark, c.endMark, crcFunction c.crc⟩

/-- The default `START_MARK` of R8 (PRESUMED: the spec marks it as general knowledge; log entry 3). -/
def defaultStartMark : Byte := 0x01#8

/-- The default `END_MARK` of R8 (PRESUMED, as above; log entry 3). -/
def defaultEndMark : Byte := 0x0D#8

/-- The default `crc16` of R8 (PRESUMED, as above; log entry 3). -/
def defaultCrc : CrcChoice := .ccittDefault

/-- The spec's default parameters (R8, D5, D6, D7). -/
def defaultConfig : Config := ⟨defaultStartMark, defaultEndMark, defaultCrc⟩

end Sys2Proof.Machine
end

