-- ==== Sys2Proof/Machine/Flags.lean ====
section
/-! DEFINITION. The four advisory flags of `DEC` (R123). None changes the status and none is stored (R27). -/

namespace Sys2Proof.Machine

/-- `LEN_MISMATCH`: `msg[1] != len(msg) - 2`, compared as numbers (R120, R123). -/
def lenMismatch (msg : Bytes) : Bool := (byteAt msg 1).toNat != msg.length - lengthAdjust

/-- `MARK_MISMATCH`: `msg[0] != START_MARK` (R123). -/
def markMismatch (p : Params) (msg : Bytes) : Bool := byteAt msg 0 != p.startMark

/-- `END_MISMATCH`: `msg[len(msg)-1] != END_MARK` (R123). -/
def endMismatch (p : Params) (msg : Bytes) : Bool := byteAt msg (msg.length - 1) != p.endMark

/-- `SEQ_RANGE`: `msg[2] >= 64` (R123). -/
def seqRange (msg : Bytes) : Bool := decide (seqModulus ≤ (byteAt msg 2).toNat)

/-- The four flags as a 4-bit value: bit 0 `LEN_MISMATCH`, bit 1 `MARK_MISMATCH`, bit 2 `END_MISMATCH`, bit 3
`SEQ_RANGE` (R123). -/
def packFlags (len mark fin range : Bool) : BitVec 4 :=
  BitVec.ofBool range ++ BitVec.ofBool fin ++ BitVec.ofBool mark ++ BitVec.ofBool len

/-- `flags` of a message (R120). -/
def advisoryFlags (p : Params) (msg : Bytes) : BitVec 4 :=
  packFlags (lenMismatch msg) (markMismatch p msg) (endMismatch p msg) (seqRange msg)

end Sys2Proof.Machine
end

