-- ==== Sys2Proof/Machine/Response.lean ====
section
/-! DEFINITION. Responses: the seven statuses and their codes (R180), the result fields (R32, R122), absent
where the rule does not name them (R15), and the packet value a response holds (R124, R137). -/

namespace Sys2Proof.Machine

/-- The seven statuses (R180). -/
inductive Status where
  | ok
  | illegalCmd
  | tooShort
  | tooLong
  | badCrc
  | badType
  | badBody
deriving DecidableEq, Repr

/-- The numeric code of a status, 3 bits (R32, R180). Code 7 is not used. -/
def statusCode : Status → BitVec 3
  | .ok => 0#3
  | .illegalCmd => 1#3
  | .tooShort => 2#3
  | .tooLong => 3#3
  | .badCrc => 4#3
  | .badType => 5#3
  | .badBody => 6#3

/-- The eight raw fields of `DEC`, which are delivered together or not at all (R122). -/
structure RawFields where
  /-- `type`: byte 3 of the message. -/
  type : Byte
  /-- `rseq`: byte 2 of the message, not reduced. -/
  rseq : Byte
  /-- `lenf`: byte 1 of the message. -/
  lenf : Byte
  /-- `rbody`: bytes 4 to `len(msg)-4`. -/
  rbody : Bytes
  /-- `crc_rx`: the checksum found in the trailer. -/
  crcRx : Word
  /-- `crc_calc`: the checksum recomputed over the span. -/
  crcCalc : Word
  /-- `crc_ok`. -/
  crcOk : Bool
  /-- `flags`: the four advisory flags (R123). -/
  flags : BitVec 4
deriving DecidableEq, Repr

/-- A response (R15): a status and result fields. A field the rule does not name for the status is absent,
`none`, never zero. -/
structure Response where
  status : Status
  /-- `frame` (R32): result of `ENC.*` when `OK`. -/
  frame : Option Bytes := none
  /-- `crc` (R32): result of `ENC.*` and of `CRC` when `OK`. -/
  crc : Option Word := none
  /-- The eight raw fields of `DEC` (R122). -/
  raw : Option RawFields := none
  /-- `value` (R32): result of `SEQ.NEXT` and `SEQ.READ`. -/
  value : Option Byte := none
deriving DecidableEq, Repr

/-- A response that carries a status and no other field. -/
def bareResponse (st : Status) : Response := { status := st }

/-- The `OK` of `ENC.*` (R101). -/
def encodedResponse (frame : Bytes) (c : Word) : Response :=
  { status := .ok, frame := some frame, crc := some c }

/-- The `OK` of `CRC` (R152). -/
def checksumResponse (c : Word) : Response := { status := .ok, crc := some c }

/-- The `OK` of `SEQ.NEXT` and `SEQ.READ` (R171, R172). -/
def valueResponse (v : Byte) : Response := { status := .ok, value := some v }

/-- A response of `DEC` that delivers the raw fields (R122). -/
def rawResponse (st : Status) (raw : RawFields) : Response := { status := st, raw := some raw }

/-- The source's tagged-variant packet value (R81, R124). -/
inductive Packet where
  | negotiate (seq : Byte) (body : Bytes)
  | fileHeader (seq : Byte) (body : Bytes)
  | data (seq : Byte) (body : Bytes)
  | endOfFile (seq : Byte)
  | endOfTransmission (seq : Byte)
  | ack (seq : Byte)
  | nak (seq : Byte)
deriving DecidableEq, Repr

/-- The option record of a Negotiate packet (R70): eleven bytes, opaque to the block. -/
structure OptionRecord where
  /-- `MAXL`, max-packet-length. -/
  maxl : Byte
  /-- `TIME`, timeout-seconds. -/
  time : Byte
  /-- `NPAD`, pad-count. -/
  npad : Byte
  /-- `PADC`, pad-char. -/
  padc : Byte
  /-- `EOL`, end-of-line char. -/
  eol : Byte
  /-- `QCTL`, control-quoting flag. -/
  qctl : Byte
  /-- `QBIN`, binary-quoting flag. -/
  qbin : Byte
  /-- `CHKT`, checksum-type. -/
  chkt : Byte
  /-- `REPT`, repeat-count flag. -/
  rept : Byte
  /-- `CAPA`, capability-mask. -/
  capa : Byte
  /-- `R`, reserved. -/
  reserved : Byte
deriving DecidableEq, Repr

/-- The eleven bytes of an option record, in the source's order (R70). -/
def optionBytes (o : OptionRecord) : Bytes :=
  [o.maxl, o.time, o.npad, o.padc, o.eol, o.qctl, o.qbin, o.chkt, o.rept, o.capa, o.reserved]

/-- The option record in a body of exactly eleven bytes (R70, R125). -/
def optionRecord? (b : Bytes) : Option OptionRecord :=
  match b with
  | [maxl, time, npad, padc, eol, qctl, qbin, chkt, rept, capa, r] =>
    some ⟨maxl, time, npad, padc, eol, qctl, qbin, chkt, rept, capa, r⟩
  | _ => none

end Sys2Proof.Machine
end

