-- ==== Sys2Proof/Machine/State.lean ====
section
/-! DEFINITION. The state of one instance, plain data, and the state after reset (R20, R21, R30, R31, R210). -/

namespace Sys2Proof.Machine

/-- The reasons a step can fault: none. Every status of R180 is an ordinary answer to an input the host may
present, and the block keeps no fault bit (R186, R188), so nothing raises a fault and the type has no
constructor. -/
inductive Fault where
deriving DecidableEq, Repr

/-- The reasons a step can be refused. -/
inductive Refusal where
  /-- An instruction that has no meaning yet. Raised by an arm of `exec`; no arm raises it now. Safe: the
  machine stops. -/
  | notModelled (mnemonic : String)
  /-- An operand that cannot be formed, a byte string longer than 65535 (R32, R188, U20). Raised by the step,
  before any instruction runs. Safe: the spec gives such an operand no meaning and tells a model to refuse it. -/
  | operandTooLong
deriving DecidableEq, Repr

/-- One instance. Its architectural state is `seq` alone (R20). `config` is what R30 has a model pass to the
step function; no command writes it (log entry 2). `inbox` and `outbox` are the two sides of the host
interface: what the host has still to issue and what has been answered, oldest first (R15, R50; log entry 1).
No command reads `outbox`. -/
structure State where
  /-- `START_MARK`, `END_MARK` and `crc16` (R8, R30): fixed while the instance exists. -/
  config : Config
  /-- The register `SEQ`, 8 bits (R21). Read and written through `readSeq` and `writeSeq` only. -/
  seq : Byte
  /-- What the host issues, in issue order. -/
  inbox : List Event
  /-- The responses given, in order. -/
  outbox : List Response
deriving DecidableEq, Repr

/-- The reset state of an instance with given parameters (R31, R210, R213): `SEQ = 0`, nothing else to set. -/
def State.resetWith (c : Config) : State := ⟨c, 0#8, [], []⟩

/-- The state after reset, with the spec's default parameters (R8, R31; log entry 3). -/
def State.reset : State := State.resetWith defaultConfig

end Sys2Proof.Machine
end

