-- ==== Sys2Proof/Machine/Ops.lean ====
section
/-! DEFINITION. The shared operations: the register `SEQ`, giving a response, reset, and the two functions of
the codec (R21, R31, R100, R101, R120, R170, R186). -/

namespace Sys2Proof.Machine

/-- The value of a write to `SEQ` once bits 7:6 are hardwired to 0 (R21). -/
def hardwire (v : Byte) : Byte := v &&& 0x3F#8

/-- Reading `SEQ`: bits 7:6 read as 0 (R21). -/
def readSeq (s : State) : Byte := hardwire s.seq

/-- Writing `SEQ`: bits 7:6 stay 0 (R21). -/
def writeSeq (v : Byte) (s : State) : State := { s with seq := hardwire v }

/-- `next(c) = (c + 1) mod 64`, the addition on unbounded integers (R170). -/
def seqAfter (c : Byte) : Byte := BitVec.ofNat 8 ((c.toNat + 1) % seqModulus)

/-- The state in which a response has been handed to the host. -/
def pushResponse (r : Response) (s : State) : State := { s with outbox := s.outbox ++ [r] }

/-- `respond S(fields)` (R14): the command ends with this response. It is the whole of what the block does on a
non-`OK` status as well: no state changes, nothing is saved, no control transfers (R185, R186), and there is
nothing to return from (R187). -/
def respond (r : Response) (s : State) : Host.Outcome State Fault Refusal := .next (pushResponse r s)

/-- Reset of the instance (R210): `SEQ = 0`. The parameters are not state and the host's two lists are not the
block's, so nothing else changes. -/
def resetInstance (s : State) : State := writeSeq 0#8 s

/-- `encode_frame` (R100): header, body, checksum of both low byte first, end-mark. -/
def encodeFrame (p : Params) (t : FrameType) (seq : Byte) (body : Bytes) : Bytes × Word :=
  let n := headerLength + body.length + trailerLength
  let hdr := [p.startMark, BitVec.ofNat 8 (n - lengthAdjust), reduceSeq seq, typeCode t]
  let span := hdr ++ body
  let c := p.crc16 span
  (span ++ [lo8 c, hi8 c, p.endMark], c)

/-- The response of `ENC.<t>` for a known type (R101). -/
def encodeResponse (p : Params) (t : FrameType) (seq : Byte) (body : Bytes) : Response :=
  if shapeOk t body.length then
    encodedResponse (encodeFrame p t seq body).1 (encodeFrame p t seq body).2
  else bareResponse .badBody

/-- The raw fields of a message of at least 7 bytes (R120). Every offset is computed from `len(msg)`, never
from the `length` byte (R75, R136). -/
def rawFields (p : Params) (msg : Bytes) : RawFields where
  type := byteAt msg 3
  rseq := byteAt msg 2
  lenf := byteAt msg 1
  rbody := bodyOf msg
  crcRx := trailerCrc msg
  crcCalc := p.crc16 (spanOf msg)
  crcOk := p.crc16 (spanOf msg) == trailerCrc msg
  flags := advisoryFlags p msg

/-- The first two tests of R120, the sizes, and the third, the checksum; `judge` decides the rest. -/
def sizeAndChecksum (p : Params) (msg : Bytes) (judge : RawFields → Status) : Response :=
  if msg.length < minFrame then bareResponse .tooShort
  else if maxFrame < msg.length then bareResponse .tooLong
  else if (rawFields p msg).crcOk then rawResponse (judge (rawFields p msg)) (rawFields p msg)
  else rawResponse .badCrc (rawFields p msg)

/-- The last two tests of R120: the type is known, then the body length is the type's. -/
def typeAndShape (raw : RawFields) : Status :=
  match typeOfCode raw.type with
  | none => .badType
  | some t => if shapeOk t raw.rbody.length then .ok else .badBody

/-- `decode_frame` (R120), total on every byte string. -/
def decodeFrame (p : Params) (msg : Bytes) : Response := sizeAndChecksum p msg typeAndShape

/-- A FRAME row's answer (R125 to R131): after the size and checksum tests, `OK` when the message has a
length of the row's shape and `BAD_BODY` otherwise. -/
def frameRowResponse (p : Params) (lengthOk : Nat → Bool) (msg : Bytes) : Response :=
  sizeAndChecksum p msg fun _ => if lengthOk msg.length then .ok else .badBody

/-- The packet value in a response (R124, R137): present exactly when the status is `OK` and a type is
delivered; `none` is the source's `CorruptFrame`. -/
def packetOf (r : Response) : Option Packet :=
  match r.status, r.raw with
  | .ok, some raw =>
    match typeOfCode raw.type with
    | some .negotiate => some (.negotiate raw.rseq raw.rbody)
    | some .fileHeader => some (.fileHeader raw.rseq raw.rbody)
    | some .data => some (.data raw.rseq raw.rbody)
    | some .endOfFile => some (.endOfFile raw.rseq)
    | some .endOfTransmission => some (.endOfTransmission raw.rseq)
    | some .ack => some (.ack raw.rseq)
    | some .nak => some (.nak raw.rseq)
    | none => none
  | _, _ => none

/-- The source's `decode(bytes) -> packet_value | CorruptFrame` (R137). -/
def decodePacket (p : Params) (msg : Bytes) : Option Packet := packetOf (decodeFrame p msg)

end Sys2Proof.Machine
end

