-- ==== Sys2Proof/Machine/Checksum.lean ====
section
/-! DEFINITION. The checksum family (R152). -/

namespace Sys2Proof.Machine

/-- The response of `CRC` (R152): no span convention, the bytes exactly as given. -/
def checksumAnswer (p : Params) (msg : Bytes) : Response :=
  if maxFrame < msg.length then bareResponse .tooLong else checksumResponse (p.crc16 msg)

/-- `CRC` (R152). -/
def execCrc (msg : Bytes) (s : State) : Host.Outcome State Fault Refusal :=
  respond (checksumAnswer (paramsOf s.config) msg) s

end Sys2Proof.Machine
end

