-- ==== Sys2Proof/Machine/Encode.lean ====
section
/-! DEFINITION. The encode family (R101 to R108): one meaning per frame type. None reads or writes `SEQ`. -/

namespace Sys2Proof.Machine

/-- `ENC.S` (R102). -/
def execEncS (seq : Byte) (body : Bytes) (s : State) : Host.Outcome State Fault Refusal :=
  respond (encodeResponse (paramsOf s.config) .negotiate seq body) s

/-- `ENC.F` (R103). -/
def execEncF (seq : Byte) (body : Bytes) (s : State) : Host.Outcome State Fault Refusal :=
  respond (encodeResponse (paramsOf s.config) .fileHeader seq body) s

/-- `ENC.D` (R104). -/
def execEncD (seq : Byte) (body : Bytes) (s : State) : Host.Outcome State Fault Refusal :=
  respond (encodeResponse (paramsOf s.config) .data seq body) s

/-- `ENC.Z` (R105). -/
def execEncZ (seq : Byte) (body : Bytes) (s : State) : Host.Outcome State Fault Refusal :=
  respond (encodeResponse (paramsOf s.config) .endOfFile seq body) s

/-- `ENC.B` (R106). -/
def execEncB (seq : Byte) (body : Bytes) (s : State) : Host.Outcome State Fault Refusal :=
  respond (encodeResponse (paramsOf s.config) .endOfTransmission seq body) s

/-- `ENC.Y` (R107). -/
def execEncY (seq : Byte) (body : Bytes) (s : State) : Host.Outcome State Fault Refusal :=
  respond (encodeResponse (paramsOf s.config) .ack seq body) s

/-- `ENC.N` (R108). -/
def execEncN (seq : Byte) (body : Bytes) (s : State) : Host.Outcome State Fault Refusal :=
  respond (encodeResponse (paramsOf s.config) .nak seq body) s

end Sys2Proof.Machine
end

