-- ==== Sys2Proof/Machine/FrameDecode.lean ====
section
/-! DEFINITION. The decode family: `DEC` (R121) and the seven frame types (R125 to R131). None reads or writes
`SEQ` (R135). The lengths are those of the table's `shape` column. -/

namespace Sys2Proof.Machine

/-- `DEC` (R121). -/
def execDec (msg : Bytes) (s : State) : Host.Outcome State Fault Refusal :=
  respond (decodeFrame (paramsOf s.config) msg) s

/-- `FRAME.S` (R125): `len(msg) = 18`. -/
def execFrameS (mark lenf rseq : Byte) (rest : Bytes) (s : State) : Host.Outcome State Fault Refusal :=
  respond (frameRowResponse (paramsOf s.config) (fun n => n == 18)
    (frameMessage .negotiate mark lenf rseq rest)) s

/-- `FRAME.F` (R126): `7 <= len(msg) <= 257`. -/
def execFrameF (mark lenf rseq : Byte) (rest : Bytes) (s : State) : Host.Outcome State Fault Refusal :=
  respond (frameRowResponse (paramsOf s.config) (fun n => decide (7 ≤ n) && decide (n ≤ 257))
    (frameMessage .fileHeader mark lenf rseq rest)) s

/-- `FRAME.D` (R127): `7 <= len(msg) <= 257`. -/
def execFrameD (mark lenf rseq : Byte) (rest : Bytes) (s : State) : Host.Outcome State Fault Refusal :=
  respond (frameRowResponse (paramsOf s.config) (fun n => decide (7 ≤ n) && decide (n ≤ 257))
    (frameMessage .data mark lenf rseq rest)) s

/-- `FRAME.Z` (R128): `len(msg) = 7`. -/
def execFrameZ (mark lenf rseq : Byte) (rest : Bytes) (s : State) : Host.Outcome State Fault Refusal :=
  respond (frameRowResponse (paramsOf s.config) (fun n => n == 7)
    (frameMessage .endOfFile mark lenf rseq rest)) s

/-- `FRAME.B` (R129): `len(msg) = 7`. -/
def execFrameB (mark lenf rseq : Byte) (rest : Bytes) (s : State) : Host.Outcome State Fault Refusal :=
  respond (frameRowResponse (paramsOf s.config) (fun n => n == 7)
    (frameMessage .endOfTransmission mark lenf rseq rest)) s

/-- `FRAME.Y` (R130): `len(msg) = 7`. -/
def execFrameY (mark lenf rseq : Byte) (rest : Bytes) (s : State) : Host.Outcome State Fault Refusal :=
  respond (frameRowResponse (paramsOf s.config) (fun n => n == 7)
    (frameMessage .ack mark lenf rseq rest)) s

/-- `FRAME.N` (R131): `len(msg) = 7`. -/
def execFrameN (mark lenf rseq : Byte) (rest : Bytes) (s : State) : Host.Outcome State Fault Refusal :=
  respond (frameRowResponse (paramsOf s.config) (fun n => n == 7)
    (frameMessage .nak mark lenf rseq rest)) s

end Sys2Proof.Machine
end

