-- ==== Sys2Proof/Machine/Sequence.lean ====
section
/-! DEFINITION. The sequence family (R171, R172). -/

namespace Sys2Proof.Machine

/-- `SEQ.NEXT` (R171): advance, then answer the new value. -/
def execSeqNext (s : State) : Host.Outcome State Fault Refusal :=
  respond (valueResponse (readSeq (writeSeq (seqAfter (readSeq s)) s))) (writeSeq (seqAfter (readSeq s)) s)

/-- `SEQ.READ` (R172). -/
def execSeqRead (s : State) : Host.Outcome State Fault Refusal := respond (valueResponse (readSeq s)) s

end Sys2Proof.Machine
end

