-- ==== Sys2Proof/Machine/Dispatch.lean ====
section
/-! DEFINITION. One arm per instruction. -/

namespace Sys2Proof.Machine

def exec (i : Instr) (s : State) : Host.Outcome State Fault Refusal :=
  match i with
  | .encS seq body => Sys2Proof.Machine.execEncS seq body s
  | .encF seq body => Sys2Proof.Machine.execEncF seq body s
  | .encD seq body => Sys2Proof.Machine.execEncD seq body s
  | .encZ seq body => Sys2Proof.Machine.execEncZ seq body s
  | .encB seq body => Sys2Proof.Machine.execEncB seq body s
  | .encY seq body => Sys2Proof.Machine.execEncY seq body s
  | .encN seq body => Sys2Proof.Machine.execEncN seq body s
  | .dec msg => Sys2Proof.Machine.execDec msg s
  | .crc msg => Sys2Proof.Machine.execCrc msg s
  | .seqNext => Sys2Proof.Machine.execSeqNext s
  | .seqRead => Sys2Proof.Machine.execSeqRead s
  | .frameS mark lenf rseq rest => Sys2Proof.Machine.execFrameS mark lenf rseq rest s
  | .frameF mark lenf rseq rest => Sys2Proof.Machine.execFrameF mark lenf rseq rest s
  | .frameD mark lenf rseq rest => Sys2Proof.Machine.execFrameD mark lenf rseq rest s
  | .frameZ mark lenf rseq rest => Sys2Proof.Machine.execFrameZ mark lenf rseq rest s
  | .frameB mark lenf rseq rest => Sys2Proof.Machine.execFrameB mark lenf rseq rest s
  | .frameY mark lenf rseq rest => Sys2Proof.Machine.execFrameY mark lenf rseq rest s
  | .frameN mark lenf rseq rest => Sys2Proof.Machine.execFrameN mark lenf rseq rest s

end Sys2Proof.Machine
end

