-- ==== Sys2Proof/Machine/Serve.lean ====
section
/-! DEFINITION. Serving one event of the host: a request that is an instruction is executed, any other is
answered as the spec says, and reset resets (R82, R132, R188, R210). -/

namespace Sys2Proof.Machine

/-- The answer to a request that is no instruction of the table. -/
def rejectionResponse (p : Params) (r : Request) : Rejection → Response
  | .illegalCmd => bareResponse .illegalCmd
  | .unknownTag => bareResponse .badType
  | .noFrameRow =>
    match r with
    | .message m => decodeFrame p m
    | .command c => decodeFrame p c.msg

/-- Serve a request that can be formed. -/
def serveFormed (r : Request) (s : State) : Host.Outcome State Fault Refusal :=
  match decodeRequest r with
  | .instr i => exec i s
  | .rejected why => respond (rejectionResponse (paramsOf s.config) r why) s

/-- Serve a request. One whose operands cannot be formed is refused before the step (R188, U20). -/
def serveRequest (r : Request) (s : State) : Host.Outcome State Fault Refusal :=
  if r.formable then serveFormed r s else .refused .operandTooLong

/-- Serve an event. -/
def serveEvent (e : Event) (s : State) : Host.Outcome State Fault Refusal :=
  match e with
  | .reset => .next (resetInstance s)
  | .request r => serveRequest r s

/-- Take the next event the host has issued. With none issued the block is idle, `SEQ` held (R189, R202). -/
def takeEvent (s : State) : Host.Outcome State Fault Refusal :=
  match s.inbox with
  | [] => .next s
  | e :: rest => serveEvent e { s with inbox := rest }

/-- The state in which the request of a table row's word is issued next. -/
def issueTableWord (s : State) (nbits w : Nat) : State :=
  { s with inbox := .request (tableRequest nbits w) :: s.inbox }

end Sys2Proof.Machine
end

