-- ==== Sys2Proof/Machine/Step.lean ====
section
/-! DEFINITION. One step: one event of the host, atomically (R48, R50). -/

namespace Sys2Proof.Machine

/-- One step of the instance: the next command the host issues is executed whole and answered (R48, R50). -/
def step (s : State) : Host.Outcome State Fault Refusal := takeEvent s

/-- `s` with the request of a table row's word issued as the host's next (log entry 7). -/
def State.withFetchWord (s : State) (nbits w : Nat) : State := issueTableWord s nbits w

end Sys2Proof.Machine
end

