-- ==== Sys2Proof/Machine/Session.lean ====
section
/-! DEFINITION. A transfer session: two instances, the sender's and the receiver's, that share nothing (R200,
R51). Their hosts and the channel between them are outside the block (R4). -/

namespace Sys2Proof.Machine

/-- The role an instance serves (R2). An instance does not know it (R200). -/
inductive Role where
  | sender
  | receiver
deriving DecidableEq, Repr

/-- The two instances of a session (R200). -/
structure Session where
  sender : State
  receiver : State
deriving DecidableEq, Repr

/-- Both instances reset, with equal parameters (R200, R233). -/
def sessionReset (c : Config) : Session := ⟨State.resetWith c, State.resetWith c⟩

/-- The instance of a role. -/
def instanceOf (ρ : Role) (x : Session) : State :=
  match ρ with
  | .sender => x.sender
  | .receiver => x.receiver

/-- The session with the instance of a role replaced. -/
def withInstance (ρ : Role) (s : State) (x : Session) : Session :=
  match ρ with
  | .sender => { x with sender := s }
  | .receiver => { x with receiver := s }

/-- The instance of one role takes a step; the other does not move. -/
def sessionStep (ρ : Role) (x : Session) : Host.Outcome Session Fault Refusal :=
  match step (instanceOf ρ x) with
  | .next s => .next (withInstance ρ s x)
  | .fault r => .fault r
  | .refused r => .refused r

end Sys2Proof.Machine
end

