-- ==== Sys2Proof/Safety.lean ====
section
/-! DEFINITION. What a good state and a good response are, and the command patterns of the two hosts, in the
terms claims use (R22, R122, R180, R220 to R224, R241, R242). -/

namespace Sys2Proof.Machine

/-- The raw fields fit each other (R32, R120, R123): the body is at most 250 bytes, `crc_ok` is the comparison
of the two checksums, `LEN_MISMATCH` compares `lenf` with the size, `SEQ_RANGE` tests `rseq`. -/
def rawWf (raw : RawFields) : Bool :=
  decide (raw.rbody.length ≤ 250) && (raw.crcOk == (raw.crcCalc == raw.crcRx)) &&
  (raw.flags.getLsbD 0 == (raw.lenf.toNat != raw.rbody.length + 5)) &&
  (raw.flags.getLsbD 3 == decide (64 ≤ raw.rseq.toNat))

/-- The type is known and admits the body length. -/
def rawShapeOk (raw : RawFields) : Bool :=
  match typeOfCode raw.type with
  | some t => shapeOk t raw.rbody.length
  | none => false

/-- A response delivers exactly the fields its status and command name (R83, R122, R180), within the bounds of
R32. -/
def responseWf (r : Response) : Bool :=
  match r.status, r.frame, r.crc, r.raw, r.value with
  | .ok, some f, some _, none, none => decide (7 ≤ f.length) && decide (f.length ≤ 257)
  | .ok, none, some _, none, none => true
  | .ok, none, none, some raw, none => rawWf raw && raw.crcOk && rawShapeOk raw
  | .ok, none, none, none, some v => decide (v.toNat ≤ 63)
  | .illegalCmd, none, none, none, none => true
  | .tooShort, none, none, none, none => true
  | .tooLong, none, none, none, none => true
  | .badCrc, none, none, some raw, none => rawWf raw && !raw.crcOk
  | .badType, none, none, none, none => true
  | .badType, none, none, some raw, none => rawWf raw && raw.crcOk && (typeOfCode raw.type).isNone
  | .badBody, none, none, none, none => true
  | .badBody, none, none, some raw, none =>
    rawWf raw && raw.crcOk && (typeOfCode raw.type).isSome && !rawShapeOk raw
  | _, _, _, _, _ => false

/-- The invariant: `0 <= SEQ <= 63` (R22), and every response given so far is of a form the spec names. -/
def stateInv (s : State) : Bool := decide (s.seq.toNat ≤ 63) && s.outbox.all responseWf

/-- An event whose operands, if any, can be formed (R32). -/
def eventFormable : Event → Bool
  | .reset => true
  | .request r => r.formable

/-- Every request the host has still to issue can be formed: a run of such an inbox is never refused. -/
def inboxFormable (s : State) : Bool := s.inbox.all eventFormable

/-- `k` steps, stopping at the first fault or refusal. -/
def runSteps : Nat → State → Host.Outcome State Fault Refusal
  | 0, s => .next s
  | k + 1, s =>
    match step s with
    | .next s' => runSteps k s'
    | .fault r => .fault r
    | .refused r => .refused r

/-- The event in which the host issues an instruction. -/
def issue (i : Instr) : Event := .request (encodeInstr i)

/-- The event is the command `SEQ.NEXT`, word `0x0400` (R81). -/
def isSeqNext : Event → Bool
  | .request (.command c) => c.word == 0x0400#16
  | _ => false

/-- What the sender's host issues for one packet before it knows the outcome (R221, R224, R241): `SEQ.READ`,
`ENC.<t>` with the sequence number `seq`, one `DEC` for each message received. -/
def senderAttempts (t : FrameType) (seq : Byte) (body : Bytes) (received : List Bytes) : List Event :=
  issue .seqRead :: issue (encInstr t seq body) :: received.map fun m => issue (.dec m)

/-- The sender's commands for one acknowledged packet: the attempts and one `SEQ.NEXT` (R220, R241). -/
def senderPacket (t : FrameType) (seq : Byte) (body : Bytes) (received : List Bytes) : List Event :=
  senderAttempts t seq body received ++ [issue .seqNext]

/-- The receiver's commands for one accepted packet (R223, R242): `DEC` and `ENC.N` for each damaged delivery,
then `DEC` and `ENC.Y` for the good one, then `SEQ.NEXT`. Which number an `N` or `Y` frame carries is open (N9,
U11, D27), so each damaged delivery is paired with the number its `ENC.N` is given, and `ack` is the number of the
`ENC.Y`: any bytes, not related to each other (log entry 14). -/
def receiverPacket (damaged : List (Bytes × Byte)) (good : Bytes) (ack : Byte) : List Event :=
  (damaged.flatMap fun d => [issue (.dec d.1), issue (.encN d.2 [])]) ++
    [issue (.dec good), issue (.encY ack []), issue .seqNext]

end Sys2Proof.Machine
end

