-- ==== Sys2Proof/Certificates/Slice0/Obligations.lean ====
section
/-! DEFINITION. The statements for the provers. Each says in its docstring which rule of the spec it formalises.
The helpers below write a rule's right-hand side in plain arithmetic and lists, not with the model's own codec. -/

namespace Sys2Proof.Statements

open Sys2Proof Sys2Proof.Machine

/-- In state `s` the instruction completes, and its whole effect is the response `r`: `SEQ`, the parameters,
what the host has still to issue and the earlier responses are as before (R14, R186). -/
def Answers (i : Instr) (s : State) (r : Response) : Prop :=
  exec i s = .next { s with outbox := s.outbox ++ [r] }

/-- The instance's `crc16` (R150). -/
abbrev crcOf (s : State) : Bytes → Word := crcFunction s.config.crc

/-- The trailer of R68: checksum low byte, checksum high byte, end-mark. -/
def trailer (c : Word) (fin : Byte) : Bytes :=
  [BitVec.ofNat 8 (c.toNat % 256), BitVec.ofNat 8 (c.toNat / 256), fin]

/-- The `OK` of an encoder whose frame has header `hdr` and body `body` (R62, R69, R101). -/
def framed (s : State) (hdr body : Bytes) : Response :=
  { status := .ok
    frame := some (hdr ++ body ++ trailer (crcOf s (hdr ++ body)) s.config.endMark)
    crc := some (crcOf s (hdr ++ body)) }

/-- The seven type codes of R66: `S F D Z B Y N`. -/
def sevenCodes : List Byte := [0x53#8, 0x46#8, 0x44#8, 0x5A#8, 0x42#8, 0x59#8, 0x4E#8]

/-- `shape_ok(t, b)` of R67, on type bytes. -/
def shapeAdmits (t : Byte) (b : Nat) : Prop :=
  (t = 0x53#8 ∧ b = 11) ∨ ((t = 0x46#8 ∨ t = 0x44#8) ∧ b ≤ 250) ∨
  ((t = 0x5A#8 ∨ t = 0x42#8 ∨ t = 0x59#8 ∨ t = 0x4E#8) ∧ b = 0)

/-- The checksum a trailer holds, low byte first (R43). -/
def received (lo hi : Byte) : Word := BitVec.ofNat 16 (lo.toNat + 256 * hi.toNat)

/-- The eight raw fields R120 gives for the message `[m, l, q, t] ++ body ++ [lo, hi, e]`. -/
def decFields (s : State) (m l q t : Byte) (body : Bytes) (lo hi e : Byte) : RawFields :=
  { type := t, rseq := q, lenf := l, rbody := body
    crcRx := received lo hi
    crcCalc := crcOf s ([m, l, q, t] ++ body)
    crcOk := decide (crcOf s ([m, l, q, t] ++ body) = received lo hi)
    flags := BitVec.ofNat 4
      ((if l.toNat = body.length + 5 then 0 else 1) + (if m = s.config.startMark then 0 else 2) +
       (if e = s.config.endMark then 0 else 4) + (if q.toNat < 64 then 0 else 8)) }

/-- The fields of a message of the default instance whose checksum is `c` both ways. -/
def goodFields (t q l : Byte) (body : Bytes) (c : Word) (flags : BitVec 4) : RawFields :=
  { type := t, rseq := q, lenf := l, rbody := body, crcRx := c, crcCalc := c, crcOk := true, flags := flags }

/-- The command word of an event's command, if the event is one. -/
def eventWord : Event → Option Word
  | .request (.command c) => some c.word
  | _ => none

end Sys2Proof.Statements

open Sys2Proof Sys2Proof.Machine Sys2Proof.Statements

/-! ### The encode family -/

/-- R66, R67, R77: the seven type codes are the ones a type byte is matched against, no other byte names a type,
and the body lengths each type admits are those of R67. The numeric codes are ASCII, which the spec takes from
general knowledge (log entry 12, PRESUMED). -/
def Obligations.ShapeAdmitsExactlyTheTypesLengths : Prop :=
  (∀ (t : FrameType) (b : Nat), shapeOk t b = true ↔ shapeAdmits (typeCode t) b) ∧
  (∀ c : Byte, (∃ t, typeOfCode c = some t) ↔ c ∈ sevenCodes) ∧
  (∀ (c : Byte) (b : Nat), c ∉ sevenCodes → ¬ shapeAdmits c b) ∧
  ∀ t : FrameType, typeOfCode (typeCode t) = some t

/-- R102: `ENC.S` admits a body of exactly 11 bytes and then answers the 18-byte frame whose `length` byte is
`0x10`; any other body is `BAD_BODY`. -/
def Obligations.EncSAnswersOptionFrame : Prop :=
  ∀ (seq : Byte) (body : Bytes) (s : State),
    (body.length = 11 → Answers (.encS seq body) s
      (framed s [s.config.startMark, 0x10#8, BitVec.ofNat 8 (seq.toNat % 64), 0x53#8] body)) ∧
    (body.length ≠ 11 → Answers (.encS seq body) s { status := .badBody })

/-- R103, R104: `ENC.F` and `ENC.D` admit 0 to 250 bytes and answer a frame of `len(body) + 7` bytes whose
`length` byte is `len(body) + 5`; a longer body is `BAD_BODY`. -/
def Obligations.EncFAndEncDAnswerVariableFrames : Prop :=
  ∀ (seq : Byte) (body : Bytes) (s : State),
    (body.length ≤ 250 →
      Answers (.encF seq body) s (framed s [s.config.startMark, BitVec.ofNat 8 (body.length + 5),
        BitVec.ofNat 8 (seq.toNat % 64), 0x46#8] body) ∧
      Answers (.encD seq body) s (framed s [s.config.startMark, BitVec.ofNat 8 (body.length + 5),
        BitVec.ofNat 8 (seq.toNat % 64), 0x44#8] body)) ∧
    (250 < body.length →
      Answers (.encF seq body) s { status := .badBody } ∧ Answers (.encD seq body) s { status := .badBody })

/-- R105 to R108: `ENC.Z`, `ENC.B`, `ENC.Y`, `ENC.N` admit only the empty body and then answer a 7-byte frame
whose `length` byte is `0x05`; any other body is `BAD_BODY`. -/
def Obligations.EmptyBodyEncodersAnswerSevenByteFrames : Prop :=
  ∀ (seq : Byte) (s : State),
    (Answers (.encZ seq []) s
        (framed s [s.config.startMark, 0x05#8, BitVec.ofNat 8 (seq.toNat % 64), 0x5A#8] []) ∧
      Answers (.encB seq []) s
        (framed s [s.config.startMark, 0x05#8, BitVec.ofNat 8 (seq.toNat % 64), 0x42#8] []) ∧
      Answers (.encY seq []) s
        (framed s [s.config.startMark, 0x05#8, BitVec.ofNat 8 (seq.toNat % 64), 0x59#8] []) ∧
      Answers (.encN seq []) s
        (framed s [s.config.startMark, 0x05#8, BitVec.ofNat 8 (seq.toNat % 64), 0x4E#8] [])) ∧
    ∀ body : Bytes, body ≠ [] →
      Answers (.encZ seq body) s { status := .badBody } ∧ Answers (.encB seq body) s { status := .badBody } ∧
      Answers (.encY seq body) s { status := .badBody } ∧ Answers (.encN seq body) s { status := .badBody }

/-- R109: the eight laws (a) to (h) of every `OK` answer of an encoder. -/
def Obligations.EncodedFrameObeysLayoutLaws : Prop :=
  ∀ (t : FrameType) (seq : Byte) (body : Bytes) (s s' : State) (r : Response) (frame : Bytes) (c : Word),
    exec (encInstr t seq body) s = .next s' → s'.outbox = s.outbox ++ [r] →
    r.status = .ok → r.frame = some frame → r.crc = some c →
      frame.length = body.length + 7 ∧
      frame[0]? = some s.config.startMark ∧
      (∃ l, frame[1]? = some l ∧ l.toNat = frame.length - 2) ∧
      (∃ q, frame[2]? = some q ∧ q.toNat = seq.toNat % 64 ∧ q.toNat ≤ 63) ∧
      frame[3]? = some (typeCode t) ∧
      (frame.drop 4).take (frame.length - 7) = body ∧
      (c = crcOf s (frame.take (frame.length - 3)) ∧
        ∃ lo hi, frame[frame.length - 3]? = some lo ∧ frame[frame.length - 2]? = some hi ∧
          lo.toNat = c.toNat % 256 ∧ hi.toNat = c.toNat / 256) ∧
      frame[frame.length - 1]? = some s.config.endMark

/-- R111: an encoder's `seq` operand is reduced modulo 64, silently: it and its reduction give the same outcome,
and a `seq` of 0..63 is carried as it is. -/
def Obligations.EncodersReduceSequenceNumber : Prop :=
  ∀ (t : FrameType) (seq : Byte) (body : Bytes) (s : State),
    exec (encInstr t seq body) s = exec (encInstr t (BitVec.ofNat 8 (seq.toNat % 64)) body) s ∧
    (shapeAdmits (typeCode t) body.length → ∃ r frame, Answers (encInstr t seq body) s r ∧
      r.status = .ok ∧ r.frame = some frame ∧
      (seq.toNat < 64 → frame[2]? = some seq) ∧
      (64 ≤ seq.toNat → frame[2]? = some (BitVec.ofNat 8 (seq.toNat % 64))))

/-- R29, R48, R110: an answer depends on the operands and the parameters alone, and for the two `SEQ` commands
on `SEQ`; not on earlier commands, earlier answers or commands to come. -/
def Obligations.AnswersDependOnlyOnOperandsAndParameters : Prop :=
  ∀ (i : Instr) (s₁ s₂ : State), s₁.config = s₂.config →
    (i = .seqNext ∨ i = .seqRead → readSeq s₁ = readSeq s₂) →
    ∃ r t₁ t₂, exec i s₁ = .next t₁ ∧ exec i s₂ = .next t₂ ∧
      t₁.outbox = s₁.outbox ++ [r] ∧ t₂.outbox = s₂.outbox ++ [r]

/-- The spec's worked examples of R102 to R108. They hold for the default parameters, which the spec takes from
general knowledge (log entry 3); the premise names them. -/
def Obligations.WorkedEncodeExamples : Prop :=
  ∀ s : State, s.config = defaultConfig →
    Answers (.encS 0x00#8 [0xFA#8, 0x05#8, 0x00#8, 0x00#8, 0x0D#8, 0x00#8, 0x00#8, 0x00#8, 0x00#8, 0x00#8, 0x00#8]) s
      { status := .ok, crc := some 0x9FFB#16,
        frame := some [0x01#8, 0x10#8, 0x00#8, 0x53#8, 0xFA#8, 0x05#8, 0x00#8, 0x00#8, 0x0D#8, 0x00#8, 0x00#8,
          0x00#8, 0x00#8, 0x00#8, 0x00#8, 0xFB#8, 0x9F#8, 0x0D#8] } ∧
    Answers (.encF 0x01#8 [0x61#8, 0x2E#8, 0x74#8, 0x78#8, 0x74#8]) s
      { status := .ok, crc := some 0xB87D#16,
        frame := some [0x01#8, 0x0A#8, 0x01#8, 0x46#8, 0x61#8, 0x2E#8, 0x74#8, 0x78#8, 0x74#8, 0x7D#8, 0xB8#8,
          0x0D#8] } ∧
    Answers (.encD 0x02#8 [0x48#8, 0x65#8, 0x6C#8, 0x6C#8, 0x6F#8]) s
      { status := .ok, crc := some 0xBDDB#16,
        frame := some [0x01#8, 0x0A#8, 0x02#8, 0x44#8, 0x48#8, 0x65#8, 0x6C#8, 0x6C#8, 0x6F#8, 0xDB#8, 0xBD#8,
          0x0D#8] } ∧
    Answers (.encZ 0x05#8 []) s
      { status := .ok, crc := some 0x990E#16,
        frame := some [0x01#8, 0x05#8, 0x05#8, 0x5A#8, 0x0E#8, 0x99#8, 0x0D#8] } ∧
    Answers (.encB 0x06#8 []) s
      { status := .ok, crc := some 0x5F64#16,
        frame := some [0x01#8, 0x05#8, 0x06#8, 0x42#8, 0x64#8, 0x5F#8, 0x0D#8] } ∧
    Answers (.encY 0x00#8 []) s
      { status := .ok, crc := some 0x5698#16,
        frame := some [0x01#8, 0x05#8, 0x00#8, 0x59#8, 0x98#8, 0x56#8, 0x0D#8] } ∧
    Answers (.encN 0x00#8 []) s
      { status := .ok, crc := some 0x344E#16,
        frame := some [0x01#8, 0x05#8, 0x00#8, 0x4E#8, 0x4E#8, 0x34#8, 0x0D#8] }

/-! ### The decode family -/

/-- R120, R121: `DEC` of every byte string. Below 7 bytes `TOO_SHORT`, above 257 `TOO_LONG`; any other message is
a header, a body of at most 250 bytes and a trailer, and the first failing test of checksum, type and shape names
the status, with the eight raw fields. -/
def Obligations.DecAnswersEveryMessage : Prop :=
  ∀ s : State,
    (∀ msg : Bytes, msg.length < 7 → Answers (.dec msg) s { status := .tooShort }) ∧
    (∀ msg : Bytes, 257 < msg.length → Answers (.dec msg) s { status := .tooLong }) ∧
    (∀ msg : Bytes, 7 ≤ msg.length → msg.length ≤ 257 →
      ∃ (m l q t : Byte) (body : Bytes) (lo hi e : Byte), body.length ≤ 250 ∧
        msg = [m, l, q, t] ++ body ++ [lo, hi, e]) ∧
    ∀ (m l q t : Byte) (body : Bytes) (lo hi e : Byte), body.length ≤ 250 →
      ∃ st : Status,
        Answers (.dec ([m, l, q, t] ++ body ++ [lo, hi, e])) s
          { status := st, raw := some (decFields s m l q t body lo hi e) } ∧
        (crcOf s ([m, l, q, t] ++ body) ≠ received lo hi → st = .badCrc) ∧
        (crcOf s ([m, l, q, t] ++ body) = received lo hi →
          (t ∉ sevenCodes → st = .badType) ∧
          (t ∈ sevenCodes → ¬ shapeAdmits t body.length → st = .badBody) ∧
          (shapeAdmits t body.length → st = .ok))

/-- R122: which fields each status of `DEC` delivers, and what a host may rely on. -/
def Obligations.DecDeliversFieldsByStatus : Prop :=
  ∀ (msg : Bytes) (s : State), ∃ r, Answers (.dec msg) s r ∧
    r.frame = none ∧ r.crc = none ∧ r.value = none ∧
    (r.status = .tooShort ↔ msg.length < 7) ∧ (r.status = .tooLong ↔ 257 < msg.length) ∧
    (r.raw = none ↔ r.status = .tooShort ∨ r.status = .tooLong) ∧
    ∀ raw, r.raw = some raw →
      (raw.crcOk = false ↔ r.status = .badCrc) ∧
      (r.status = .badType → raw.type ∉ sevenCodes) ∧
      (r.status = .badBody → raw.type ∈ sevenCodes ∧ ¬ shapeAdmits raw.type raw.rbody.length) ∧
      (r.status = .ok → shapeAdmits raw.type raw.rbody.length)

/-- R123: what each advisory flag reports, that no flag is stored (the response is the whole effect of `DEC`), and
that none changes the status: two messages of one length and
type byte whose checksum verdicts agree get the same status, whatever their flags and the two instances'
markers. -/
def Obligations.AdvisoryFlagsNeverChangeStatus : Prop :=
  (∀ (msg : Bytes) (s : State), ∃ r, Answers (.dec msg) s r ∧ ∀ raw, r.raw = some raw →
      (raw.flags.getLsbD 0 = true ↔ (msg.getD 1 0).toNat ≠ msg.length - 2) ∧
      (raw.flags.getLsbD 1 = true ↔ msg.getD 0 0 ≠ s.config.startMark) ∧
      (raw.flags.getLsbD 2 = true ↔ msg.getD (msg.length - 1) 0 ≠ s.config.endMark) ∧
      (raw.flags.getLsbD 3 = true ↔ 64 ≤ (msg.getD 2 0).toNat)) ∧
  ∀ (msg msg' : Bytes) (s s' : State) (r r' : Response),
    Answers (.dec msg) s r → Answers (.dec msg') s' r' →
    msg.length = msg'.length → msg.getD 3 0 = msg'.getD 3 0 →
    (∀ raw raw', r.raw = some raw → r'.raw = some raw' → raw.crcOk = raw'.crcOk) →
    r.status = r'.status

/-- R124, R137: the packet value a message decodes to, by its type; there is one exactly when the status is
`OK`, for any three parameters. -/
def Obligations.PacketValueExactlyWhenOk : Prop :=
  ∀ (p : Params) (msg : Bytes),
    ((decodePacket p msg).isSome = true ↔ (decodeFrame p msg).status = .ok) ∧
    ∀ raw : RawFields, (decodeFrame p msg).status = .ok → (decodeFrame p msg).raw = some raw →
      (raw.type = 0x53#8 → decodePacket p msg = some (.negotiate raw.rseq raw.rbody) ∧ raw.rbody.length = 11) ∧
      (raw.type = 0x46#8 → decodePacket p msg = some (.fileHeader raw.rseq raw.rbody)) ∧
      (raw.type = 0x44#8 → decodePacket p msg = some (.data raw.rseq raw.rbody)) ∧
      (raw.type = 0x5A#8 → decodePacket p msg = some (.endOfFile raw.rseq)) ∧
      (raw.type = 0x42#8 → decodePacket p msg = some (.endOfTransmission raw.rseq)) ∧
      (raw.type = 0x59#8 → decodePacket p msg = some (.ack raw.rseq)) ∧
      (raw.type = 0x4E#8 → decodePacket p msg = some (.nak raw.rseq))

/-- R125: a `FRAME.S` message with a good checksum is `OK` exactly at 18 bytes, and its body is the option
record, field by field; at any other length it is `BAD_BODY`. -/
def Obligations.FrameSDeliversOptionRecord : Prop :=
  ∀ (m l q : Byte) (body : Bytes) (lo hi e : Byte) (s : State), body.length ≤ 250 →
    crcOf s ([m, l, q, 0x53#8] ++ body) = received lo hi →
    (body.length = 11 →
      Answers (.frameS m l q (body ++ [lo, hi, e])) s
        { status := .ok, raw := some (decFields s m l q 0x53#8 body lo hi e) } ∧
      optionRecord? body = some
        { maxl := body.getD 0 0, time := body.getD 1 0, npad := body.getD 2 0, padc := body.getD 3 0,
          eol := body.getD 4 0, qctl := body.getD 5 0, qbin := body.getD 6 0, chkt := body.getD 7 0,
          rept := body.getD 8 0, capa := body.getD 9 0, reserved := body.getD 10 0 }) ∧
    (body.length ≠ 11 →
      Answers (.frameS m l q (body ++ [lo, hi, e])) s
        { status := .badBody, raw := some (decFields s m l q 0x53#8 body lo hi e) })

/-- R126, R127: a `FRAME.F` or `FRAME.D` message of 7 to 257 bytes with a good checksum is always `OK`. -/
def Obligations.FrameFAndFrameDAlwaysOk : Prop :=
  ∀ (m l q : Byte) (body : Bytes) (lo hi e : Byte) (s : State), body.length ≤ 250 →
    (crcOf s ([m, l, q, 0x46#8] ++ body) = received lo hi →
      Answers (.frameF m l q (body ++ [lo, hi, e])) s
        { status := .ok, raw := some (decFields s m l q 0x46#8 body lo hi e) }) ∧
    (crcOf s ([m, l, q, 0x44#8] ++ body) = received lo hi →
      Answers (.frameD m l q (body ++ [lo, hi, e])) s
        { status := .ok, raw := some (decFields s m l q 0x44#8 body lo hi e) })

/-- R128 to R131: a `FRAME.Z`, `FRAME.B`, `FRAME.Y` or `FRAME.N` message with a good checksum is `OK` at 7 bytes,
with an empty body, and `BAD_BODY` at any other length. -/
def Obligations.EmptyFramesOkOnlyAtSevenBytes : Prop :=
  ∀ (m l q : Byte) (body : Bytes) (lo hi e : Byte) (s : State) (st : Status), body.length ≤ 250 →
    (body = [] → st = .ok) → (body ≠ [] → st = .badBody) →
    (crcOf s ([m, l, q, 0x5A#8] ++ body) = received lo hi →
      Answers (.frameZ m l q (body ++ [lo, hi, e])) s
        { status := st, raw := some (decFields s m l q 0x5A#8 body lo hi e) }) ∧
    (crcOf s ([m, l, q, 0x42#8] ++ body) = received lo hi →
      Answers (.frameB m l q (body ++ [lo, hi, e])) s
        { status := st, raw := some (decFields s m l q 0x42#8 body lo hi e) }) ∧
    (crcOf s ([m, l, q, 0x59#8] ++ body) = received lo hi →
      Answers (.frameY m l q (body ++ [lo, hi, e])) s
        { status := st, raw := some (decFields s m l q 0x59#8 body lo hi e) }) ∧
    (crcOf s ([m, l, q, 0x4E#8] ++ body) = received lo hi →
      Answers (.frameN m l q (body ++ [lo, hi, e])) s
        { status := st, raw := some (decFields s m l q 0x4E#8 body lo hi e) })

/-- A FRAME row does to its message, of any size and content, exactly what `DEC` does to it (R79, R125 to R131:
"decode_frame restricted"). So does a step on any message the host presents, one that selects no FRAME row
included (no header, or a type byte that is none of the seven: R77, R132): it is the step on the command `DEC` of
that message. That a message may be presented so, and that the step answers one without a row, are the model's
choices (log entries 6 and 13); this says they add no behaviour. -/
def Obligations.FrameRowsAnswerAsDec : Prop :=
  (∀ (t : FrameType) (m l q : Byte) (rest : Bytes) (s : State),
    exec (frameInstr t m l q rest) s = exec (.dec ([m, l, q, typeCode t] ++ rest)) s) ∧
  ∀ (msg : Bytes) (later : List Event) (s : State),
    step { s with inbox := .request (.message msg) :: later } =
      step { s with inbox := .request (.command { word := 0x0200#16, msg := msg }) :: later }

/-- R133: round trip, for every three parameters and, as commands, on two instances with equal parameters. -/
def Obligations.EncodedFrameDecodesToItsPacket : Prop :=
  (∀ (p : Params) (t : FrameType) (seq : Byte) (body : Bytes), shapeAdmits (typeCode t) body.length →
    decodeFrame p (encodeFrame p t seq body).1 =
      { status := .ok
        raw := some (goodFields (typeCode t) (BitVec.ofNat 8 (seq.toNat % 64)) (BitVec.ofNat 8 (body.length + 5))
          body (encodeFrame p t seq body).2 0b0000#4) }) ∧
  ∀ (t : FrameType) (seq : Byte) (body : Bytes) (s₁ s₂ : State), s₁.config = s₂.config →
    shapeAdmits (typeCode t) body.length →
    ∃ frame c, Answers (encInstr t seq body) s₁ { status := .ok, frame := some frame, crc := some c } ∧
      Answers (.dec frame) s₂
        { status := .ok
          raw := some (goodFields (typeCode t) (BitVec.ofNat 8 (seq.toNat % 64))
            (BitVec.ofNat 8 (body.length + 5)) body c 0b0000#4) }

/-- R134, and R155 (a), which the spec takes from general knowledge: a single inverted bit. In the end-mark byte: same
status and fields but `END_MISMATCH`. In the checksum bytes: `BAD_CRC`, `crc_rx` changed, `crc_calc` not. In the span:
`BAD_CRC` when `crc16` detects single bits, as `CRC16_DEFAULT` does. -/
def Obligations.SingleBitCorruptionIsDetected : Prop :=
  DetectsSingleBit crc16Default ∧
  ∀ (t : FrameType) (seq : Byte) (body : Bytes) (s : State) (k : Nat),
    shapeAdmits (typeCode t) body.length → k < 8 →
    ∃ frame c raw, Answers (encInstr t seq body) s { status := .ok, frame := some frame, crc := some c } ∧
      Answers (.dec frame) s { status := .ok, raw := some raw } ∧
      Answers (.dec (flipBit frame (frame.length - 1) k)) s
        { status := .ok, raw := some { raw with flags := 0b0100#4 } } ∧
      (∀ j, j = frame.length - 3 ∨ j = frame.length - 2 →
        ∃ raw', Answers (.dec (flipBit frame j k)) s { status := .badCrc, raw := some raw' } ∧
          raw'.crcRx ≠ raw.crcRx ∧ raw'.crcCalc = raw.crcCalc) ∧
      (DetectsSingleBit (crcOf s) → ∀ j, j ≤ frame.length - 4 →
        ∃ raw', Answers (.dec (flipBit frame j k)) s { status := .badCrc, raw := some raw' })

/-- R138 (a) to (g): the corner cases, (c) to (g) on an instance with the default parameters, as the spec's
examples are. -/
def Obligations.DecCornerCases : Prop :=
  (∀ (s : State) (msg : Bytes), msg.length = 6 → Answers (.dec msg) s { status := .tooShort }) ∧
  (∀ (s : State) (msg : Bytes), msg.length = 258 → Answers (.dec msg) s { status := .tooLong }) ∧
  ∀ s : State,
    (s.config = { defaultConfig with crc := .ccittFalse } → ∃ raw,
      Answers (.dec (List.replicate 7 0x00#8)) s { status := .badCrc, raw := some raw } ∧
        raw.crcCalc = 0x84C0#16) ∧
    (s.config = defaultConfig →
      Answers (.dec (List.replicate 7 0x00#8)) s
        { status := .badType, raw := some (goodFields 0x00#8 0x00#8 0x00#8 [] 0x0000#16 0b0111#4) } ∧
      Answers (.dec [0x01#8, 0x05#8, 0x00#8, 0x59#8, 0x56#8, 0x98#8, 0x0D#8]) s
        { status := .badCrc
          raw := some ⟨0x59#8, 0x00#8, 0x05#8, [], 0x9856#16, 0x5698#16, false, 0b0000#4⟩ } ∧
      Answers (.dec [0x01#8, 0x05#8, 0x00#8, 0x59#8, 0x98#8, 0x56#8, 0x0A#8]) s
        { status := .ok, raw := some (goodFields 0x59#8 0x00#8 0x05#8 [] 0x5698#16 0b0100#4) } ∧
      Answers (.dec [0x02#8, 0x05#8, 0x00#8, 0x59#8, 0x44#8, 0xCD#8, 0x0D#8]) s
        { status := .ok, raw := some (goodFields 0x59#8 0x00#8 0x05#8 [] 0xCD44#16 0b0010#4) } ∧
      Answers (.dec [0x01#8, 0x05#8, 0x40#8, 0x59#8, 0x54#8, 0x5B#8, 0x0D#8]) s
        { status := .ok, raw := some (goodFields 0x59#8 0x40#8 0x05#8 [] 0x5B54#16 0b1000#4) })

/-- R233: two instances with one `crc16` and different markers: the frame is accepted, with `MARK_MISMATCH` or
`END_MISMATCH` set for each marker that differs. -/
def Obligations.DifferentMarkersAreFlaggedNotRejected : Prop :=
  ∀ (t : FrameType) (seq : Byte) (body : Bytes) (s₁ s₂ : State), s₁.config.crc = s₂.config.crc →
    shapeAdmits (typeCode t) body.length →
    ∃ frame c raw, Answers (encInstr t seq body) s₁ { status := .ok, frame := some frame, crc := some c } ∧
      Answers (.dec frame) s₂ { status := .ok, raw := some raw } ∧
      raw.type = typeCode t ∧ raw.rbody = body ∧
      raw.flags.getLsbD 0 = false ∧ raw.flags.getLsbD 3 = false ∧
      (raw.flags.getLsbD 1 = true ↔ s₁.config.startMark ≠ s₂.config.startMark) ∧
      (raw.flags.getLsbD 2 = true ↔ s₁.config.endMark ≠ s₂.config.endMark)

/-! ### The checksum family -/

/-- R152: `CRC` answers the checksum of exactly the bytes it is given, up to 257 of them, and `TOO_LONG` above;
given the span of an encoded frame it answers the checksum the encoder answered (which R152 derives from R100). -/
def Obligations.CrcAnswersChecksumOfOperand : Prop :=
  ∀ s : State,
    (∀ msg : Bytes, msg.length ≤ 257 → Answers (.crc msg) s { status := .ok, crc := some (crcOf s msg) }) ∧
    (∀ msg : Bytes, 257 < msg.length → Answers (.crc msg) s { status := .tooLong }) ∧
    ∀ (t : FrameType) (seq : Byte) (body frame : Bytes) (c : Word),
      Answers (encInstr t seq body) s { status := .ok, frame := some frame, crc := some c } →
      Answers (.crc (frame.take (frame.length - 3))) s { status := .ok, crc := some c }

/-- R155 (a), for the three instantiations of R157. -/
def Obligations.EveryNamedChecksumDetectsSingleBit : Prop :=
  DetectsSingleBit crc16Default ∧ DetectsSingleBit crc16False ∧ DetectsSingleBit crc16Kermit

/-- R155 (b), (c), (d): `xor_linear`, `leading_zero_blind` and `residue_zero` of `CRC16_DEFAULT`. -/
def Obligations.DefaultChecksumIsLinearWithZeroResidue : Prop :=
  XorLinear crc16Default ∧ LeadingZeroBlind crc16Default ∧ ResidueZero crc16Default

/-- R154: the byte-at-a-time form computes `CRC16_DEFAULT`, and its table has the entries the spec lists. -/
def Obligations.TableFormComputesDefaultChecksum : Prop :=
  (∀ s : Bytes, crc16ByTable s = crc16Default s) ∧
  crcTableEntry 0x00#8 = 0x0000#16 ∧ crcTableEntry 0x01#8 = 0x1021#16 ∧ crcTableEntry 0x02#8 = 0x2042#16 ∧
  crcTableEntry 0x03#8 = 0x3063#16 ∧ crcTableEntry 0x80#8 = 0x9188#16 ∧ crcTableEntry 0xFF#8 = 0x1EF0#16

/-- R156 and R157: the check values of the three instantiations. -/
def Obligations.ChecksumCheckValues : Prop :=
  crc16Default [] = 0x0000#16 ∧ crc16Default [0x00#8] = 0x0000#16 ∧ crc16Default [0x01#8] = 0x1021#16 ∧
  crc16Default [0x80#8] = 0x9188#16 ∧ crc16Default [0xFF#8] = 0x1EF0#16 ∧ crc16Default [0x41#8] = 0x58E5#16 ∧
  crc16Default [0x31#8, 0x32#8, 0x33#8, 0x34#8, 0x35#8, 0x36#8, 0x37#8, 0x38#8, 0x39#8] = 0x31C3#16 ∧
  crc16Default [0x01#8, 0x05#8] = 0x6394#16 ∧ crc16Default [0x01#8, 0x05#8, 0x00#8] = 0xC8C5#16 ∧
  crc16Default [0x01#8, 0x05#8, 0x00#8, 0x59#8] = 0x5698#16 ∧
  (List.range 8).map (fun k => shiftMsb^[k + 1] 0x0100#16) =
    [0x0200#16, 0x0400#16, 0x0800#16, 0x1000#16, 0x2000#16, 0x4000#16, 0x8000#16, 0x1021#16] ∧
  crc16Default [0x00#8, 0x00#8, 0x00#8, 0x00#8] = 0x0000#16 ∧
  crc16False [0x31#8, 0x32#8, 0x33#8, 0x34#8, 0x35#8, 0x36#8, 0x37#8, 0x38#8, 0x39#8] = 0x29B1#16 ∧
  crc16False [0x01#8, 0x05#8, 0x00#8, 0x59#8] = 0xD258#16 ∧
  crc16False [0x00#8, 0x00#8, 0x00#8, 0x00#8] = 0x84C0#16 ∧
  crc16Kermit [0x31#8, 0x32#8, 0x33#8, 0x34#8, 0x35#8, 0x36#8, 0x37#8, 0x38#8, 0x39#8] = 0x2189#16 ∧
  crc16Kermit [0x01#8, 0x05#8, 0x00#8, 0x59#8] = 0xEA42#16 ∧
  crc16Kermit [0x00#8, 0x00#8, 0x00#8, 0x00#8] = 0x0000#16

/-! ### The sequence family -/

/-- R170: `next(c) = (c + 1) mod 64` for every byte, its listed values, and that 8-bit wrap-around first gives
the same (which R170 derives). -/
def Obligations.NextIsSuccessorModulo64 : Prop :=
  (∀ c : Byte, (seqAfter c).toNat = (c.toNat + 1) % 64) ∧
  (∀ c : Byte, (seqAfter c).toNat = (c + 1#8).toNat % 64) ∧
  seqAfter 0#8 = 1#8 ∧ seqAfter 62#8 = 63#8 ∧ seqAfter 63#8 = 0#8 ∧ seqAfter 64#8 = 1#8 ∧ seqAfter 255#8 = 0#8

/-- R171: `SEQ.NEXT` writes the successor modulo 64 to `SEQ`, answers `OK` with it, and does nothing else; from 63
it goes to 0. -/
def Obligations.SeqNextAdvancesAndAnswersNewValue : Prop :=
  ∀ s : State, ∃ v : Byte, v.toNat = ((readSeq s).toNat + 1) % 64 ∧
    exec .seqNext s = .next { s with seq := v, outbox := s.outbox ++ [{ status := .ok, value := some v }] } ∧
    readSeq { s with seq := v } = v ∧ (readSeq s = 63#8 → v = 0#8)

/-- R172: `SEQ.READ` answers `OK` with `SEQ`, a value of 0..63, and writes nothing; directly after reset the value
is 0. -/
def Obligations.SeqReadAnswersSeq : Prop :=
  (∀ s : State, Answers .seqRead s { status := .ok, value := some (readSeq s) } ∧
    (readSeq s).toNat ≤ 63 ∧ (s.seq.toNat ≤ 63 → readSeq s = s.seq)) ∧
  ∀ c : Config, Answers .seqRead (State.resetWith c) { status := .ok, value := some 0x00#8 }

/-- R173: over a run of `k` steps with no reset among them, `SEQ` ends at `(s + n) mod 64`, where `n` is the number
of `SEQ.NEXT` commands run, whatever other commands ran in between. -/
def Obligations.SeqCountsSeqNextCommands : Prop :=
  ∀ (k : Nat) (s s' : State), runSteps k s = .next s' → Event.reset ∉ s.inbox.take k →
    (readSeq s').toNat = ((readSeq s).toNat + (s.inbox.take k).countP isSeqNext) % 64

/-- R174, R23: a step changes `SEQ` only if it is a reset or the command `SEQ.NEXT`. -/
def Obligations.OnlySeqNextAndResetChangeSeq : Prop :=
  ∀ s s' : State, step s = .next s' → s'.seq ≠ s.seq →
    ∃ e rest, s.inbox = e :: rest ∧ (e = .reset ∨ eventWord e = some 0x0400#16)

/-! ### Statuses, the command word, the step -/

/-- R180: the numeric codes of the seven statuses; they are distinct and none is 7. -/
def Obligations.StatusCodesAreDistinct : Prop :=
  [Status.ok, .illegalCmd, .tooShort, .tooLong, .badCrc, .badType, .badBody].map (fun st => (statusCode st).toNat)
    = [0, 1, 2, 3, 4, 5, 6] ∧
  (∀ a b : Status, statusCode a = statusCode b → a = b) ∧ ∀ a : Status, statusCode a ≠ 7#3

/-- R181: which command word can be answered with which status. -/
def Obligations.CommandsAnswerOnlyTheirStatuses : Prop :=
  ∀ (s s' : State) (c : Command) (rest : List Event) (r : Response),
    s.inbox = .request (.command c) :: rest → step s = .next s' → s'.outbox = s.outbox ++ [r] →
      (c.word.toNat / 256 = 1 → BitVec.ofNat 8 (c.word.toNat % 256) ∈ sevenCodes →
        r.status = .ok ∨ r.status = .badBody) ∧
      (c.word.toNat / 256 = 1 → BitVec.ofNat 8 (c.word.toNat % 256) ∉ sevenCodes → r.status = .badType) ∧
      (c.word = 0x0200#16 → r.status ≠ .illegalCmd) ∧
      (c.word = 0x0300#16 → r.status = .ok ∨ r.status = .tooLong) ∧
      (c.word = 0x0400#16 ∨ c.word = 0x0500#16 → r.status = .ok) ∧
      (c.word.toNat / 256 ≠ 1 → c.word ∉ [0x0200#16, 0x0300#16, 0x0400#16, 0x0500#16] →
        r.status = .illegalCmd)

/-- R186: an answer other than `OK` changes no state: `SEQ` and the parameters are as before. -/
def Obligations.NonOkAnswerChangesNothing : Prop :=
  ∀ (s s' : State) (e : Event) (rest : List Event) (r : Response),
    s.inbox = e :: rest → step s = .next s' → s'.outbox = s.outbox ++ [r] → r.status ≠ .ok →
    s' = { s with inbox := rest, outbox := s.outbox ++ [r] }

/-- R81: the eleven command words decode to the eleven commands. They do so with any operands: that an operand the
command's rule does not name is ignored is the model's choice (log entry 5, DESIGN CHOICE). -/
def Obligations.CommandWordsDecode : Prop :=
  ∀ (q : Byte) (b m : Bytes),
    decodeCommand ⟨0b0000000101010011#16, q, b, m⟩ = .instr (.encS q b) ∧
    decodeCommand ⟨0b0000000101000110#16, q, b, m⟩ = .instr (.encF q b) ∧
    decodeCommand ⟨0b0000000101000100#16, q, b, m⟩ = .instr (.encD q b) ∧
    decodeCommand ⟨0b0000000101011010#16, q, b, m⟩ = .instr (.encZ q b) ∧
    decodeCommand ⟨0b0000000101000010#16, q, b, m⟩ = .instr (.encB q b) ∧
    decodeCommand ⟨0b0000000101011001#16, q, b, m⟩ = .instr (.encY q b) ∧
    decodeCommand ⟨0b0000000101001110#16, q, b, m⟩ = .instr (.encN q b) ∧
    decodeCommand ⟨0b0000001000000000#16, q, b, m⟩ = .instr (.dec m) ∧
    decodeCommand ⟨0b0000001100000000#16, q, b, m⟩ = .instr (.crc m) ∧
    decodeCommand ⟨0b0000010000000000#16, q, b, m⟩ = .instr .seqNext ∧
    decodeCommand ⟨0b0000010100000000#16, q, b, m⟩ = .instr .seqRead

/-- R82: reserved command words are answered `ILLEGAL_CMD`, and an unknown tag `BAD_TYPE`, with no other field and
no state change. -/
def Obligations.ReservedCommandWordsAreAnswered : Prop :=
  ∀ (s : State) (c : Command) (rest : List Event), s.inbox = .request (.command c) :: rest →
    (Request.command c).formable = true →
    ((c.word.toNat / 256 = 0 ∨ 6 ≤ c.word.toNat / 256) →
      step s = .next { s with inbox := rest, outbox := s.outbox ++ [{ status := .illegalCmd }] }) ∧
    (2 ≤ c.word.toNat / 256 → c.word.toNat / 256 ≤ 5 → c.word.toNat % 256 ≠ 0 →
      step s = .next { s with inbox := rest, outbox := s.outbox ++ [{ status := .illegalCmd }] }) ∧
    (c.word.toNat / 256 = 1 → BitVec.ofNat 8 (c.word.toNat % 256) ∉ sevenCodes →
      step s = .next { s with inbox := rest, outbox := s.outbox ++ [{ status := .badType }] })

/-- R79: the type byte alone, bits 7:0 of the header word `H32`, selects the FRAME row of a message. -/
def Obligations.TypeByteAloneSelectsFrameRow : Prop :=
  ∀ (m l q c : Byte) (rest : Bytes) (t : FrameType),
    (headerWord m l q c).toNat = m.toNat * 2 ^ 24 + l.toNat * 2 ^ 16 + q.toNat * 2 ^ 8 + c.toNat ∧
    (decodeRequest (.message ([m, l, q, c] ++ rest)) = .instr (frameInstr t m l q rest) ↔
      headerWord m l q c &&& 0x000000FF#32 = BitVec.ofNat 32 (typeCode t).toNat) ∧
    (decodeTableWord 32 (headerWord m l q (typeCode t)).toNat = some (frameInstr t m l q [0#8, 0#8, 0#8]))

/-- Decoding and encoding agree (R79, R81, R83): an instruction's request decodes to it, with every operand at
every value; and a request that decodes to an instruction is, up to operands its command word does not name, that
instruction's request. -/
def Obligations.DecodeAndEncodeAgree : Prop :=
  (∀ i : Instr, decodeRequest (encodeInstr i) = .instr i) ∧
  ∀ (r : Request) (i : Instr), decodeRequest r = .instr i →
    encodeInstr i = canonicalRequest r ∧ decodeRequest (canonicalRequest r) = .instr i

/-- A step runs the decoded instruction: when the request at the head of what the host issues can be formed and
decodes to `i`, the step is `exec i` with that request taken. With nothing issued the block is idle (R189, R202). -/
def Obligations.StepRunsDecodedInstruction : Prop :=
  ∀ s : State,
    (∀ (r : Request) (rest : List Event) (i : Instr), s.inbox = .request r :: rest → r.formable = true →
      decodeRequest r = .instr i → step s = exec i { s with inbox := rest }) ∧
    (s.inbox = [] → step s = .next s)

/-- R210: reset puts the instance into its one reset state, `SEQ = 0`, from any state, and changes nothing else.
That reset is an event of the host that gives no response and leaves the parameters and the two lists is log entry
9 (DEDUCED); the value 0 is log entry 11 (DEDUCED, as the spec's own R31 derives it). -/
def Obligations.ResetSetsSeqToZero : Prop :=
  (∀ (s : State) (rest : List Event), s.inbox = .reset :: rest →
    step s = .next { s with seq := 0x00#8, inbox := rest }) ∧
  State.reset.seq = 0x00#8 ∧ ∀ c : Config, (State.resetWith c).seq = 0x00#8

/-- A step is refused exactly when the next request's operands cannot be formed (R32, R188, U20); otherwise it
completes: no fault, no refusal, nothing stuck. -/
def Obligations.StepRefusesOnlyUnformableOperands : Prop :=
  ∀ s : State,
    ((∃ why, step s = .refused why) ↔
      ∃ r rest, s.inbox = .request r :: rest ∧ r.formable = false) ∧
    ((∀ r rest, s.inbox = .request r :: rest → r.formable = true) → ∃ s', step s = .next s')

/-- What every step leaves as it is (R30, R50): the parameters; and it takes one event and gives one response to a
request, none to a reset or when idle, after the responses given before. One event a step and none when idle is log
entry 1 (DESIGN CHOICE); no response to a reset is log entry 9 (DEDUCED). -/
def Obligations.StepKeepsParametersAndOrder : Prop :=
  ∀ s s' : State, step s = .next s' →
    s'.config = s.config ∧ s'.inbox = s.inbox.tail ∧
    ∃ new : List Response, s'.outbox = s.outbox ++ new ∧
      new.length = ((s.inbox.take 1).filter fun e => e != .reset).length

/-- R50: what the first `k` commands do does not depend on the commands after them: two hosts that agree on the
first `k` events get the same responses and leave the same `SEQ`. -/
def Obligations.RunDependsOnlyOnCommandsIssued : Prop :=
  ∀ (k : Nat) (s t : State) (later later' : List Event),
    runSteps k { s with inbox := s.inbox.take k ++ later } = .next t → s.inbox.length ≥ k →
    ∃ t', runSteps k { s with inbox := s.inbox.take k ++ later' } = .next t' ∧
      t'.outbox = t.outbox ∧ t'.seq = t.seq ∧ t'.config = t.config ∧ t.inbox = later ∧ t'.inbox = later'

/-! ### Invariants and sessions -/

/-- The invariant holds after reset, whatever the parameters (R22, R31). -/
def Obligations.ResetStateMeetsInvariant : Prop :=
  stateInv State.reset = true ∧ ∀ c : Config, stateInv (State.resetWith c) = true

/-- R22, and the forms of R83, R122 and R180: every step keeps `0 <= SEQ <= 63` and gives only responses of a form
the spec names, with exactly the fields of their status. -/
def Obligations.EveryStepKeepsInvariant : Prop :=
  ∀ s s' : State, stateInv s = true → step s = .next s' → stateInv s' = true

/-- R200: the two instances of a session share no state: a step of one leaves the other as it is, and steps of the
two in either order lead to the same session. -/
def Obligations.SessionInstancesAreIndependent : Prop :=
  ∀ x y z : Session, sessionStep .sender x = .next y → sessionStep .receiver x = .next z →
    y.receiver = x.receiver ∧ z.sender = x.sender ∧
    ∃ w, sessionStep .receiver y = .next w ∧ sessionStep .sender z = .next w

/-- R220, R221, R222, R241: what the sender's host issues for one packet. Until it advances, `SEQ` stays, whatever
was received; the responses are the value of `SEQ`, the encoder's answer and one decoding for each message; the
one `SEQ.NEXT` of an acknowledged packet then advances by one. -/
def Obligations.SenderPacketAdvancesOnce : Prop :=
  ∀ (t : FrameType) (seq : Byte) (body : Bytes) (msgs : List Bytes) (s : State) (rest : List Event),
    body.length ≤ 65535 → (∀ m ∈ msgs, m.length ≤ 65535) →
    (s.inbox = senderAttempts t seq body msgs ++ rest →
      runSteps (msgs.length + 2) s = .next { s with
        inbox := rest
        outbox := s.outbox ++ [valueResponse (readSeq s), encodeResponse (paramsOf s.config) t seq body] ++
          msgs.map (decodeFrame (paramsOf s.config)) }) ∧
    (s.inbox = senderPacket t seq body msgs ++ rest →
      ∃ s', runSteps (msgs.length + 3) s = .next s' ∧ s'.inbox = rest ∧
        (readSeq s').toNat = ((readSeq s).toNat + 1) % 64)

/-- R220, R223, R242: what the receiver's host issues for one accepted packet, after any number of damaged
deliveries, advances `SEQ` by exactly one, whatever number each `N` and the `Y` carries (U11; log entry 14). -/
def Obligations.ReceiverPacketAdvancesOnce : Prop :=
  ∀ (damaged : List (Bytes × Byte)) (good : Bytes) (ack : Byte) (s : State) (rest : List Event),
    good.length ≤ 65535 → (∀ d ∈ damaged, d.1.length ≤ 65535) →
    s.inbox = receiverPacket damaged good ack ++ rest →
    ∃ s', runSteps (2 * damaged.length + 3) s = .next s' ∧ s'.inbox = rest ∧
      s'.config = s.config ∧ (readSeq s').toNat = ((readSeq s).toNat + 1) % 64
end

