-- ==== Sys2Proof/Laws/Bytes.lean ====
section
/-! SUPPORT. The byte-level operations on a message written as header, body and trailer. -/

namespace Sys2Proof.Machine

theorem toNat_ofLoHi (lo hi : Byte) : (ofLoHi lo hi).toNat = lo.toNat + 256 * hi.toNat := by
  unfold ofLoHi
  rw [BitVec.toNat_append, ← Nat.shiftLeft_add_eq_or_of_lt lo.isLt, Nat.shiftLeft_eq]
  omega

theorem toNat_lo8 (v : Word) : (lo8 v).toNat = v.toNat % 256 := by
  simp [lo8, BitVec.extractLsb'_toNat]

theorem toNat_hi8 (v : Word) : (hi8 v).toNat = v.toNat / 256 := by
  have := v.isLt
  simp [hi8, BitVec.extractLsb'_toNat, Nat.shiftRight_eq_div_pow]
  omega

@[simp] theorem ofLoHi_lo8_hi8 (v : Word) : ofLoHi (lo8 v) (hi8 v) = v := by
  apply BitVec.eq_of_toNat_eq
  rw [toNat_ofLoHi, toNat_lo8, toNat_hi8]
  omega

@[simp] theorem lo8_ofLoHi (lo hi : Byte) : lo8 (ofLoHi lo hi) = lo := by
  apply BitVec.eq_of_toNat_eq
  have := lo.isLt
  rw [toNat_lo8, toNat_ofLoHi]
  omega

@[simp] theorem hi8_ofLoHi (lo hi : Byte) : hi8 (ofLoHi lo hi) = hi := by
  apply BitVec.eq_of_toNat_eq
  have := lo.isLt
  rw [toNat_hi8, toNat_ofLoHi]
  omega

/-- Storing low byte first loses nothing: two pairs of bytes make the same value only if they are the same. -/
theorem ofLoHi_inj {lo hi lo' hi' : Byte} : ofLoHi lo hi = ofLoHi lo' hi' ↔ lo = lo' ∧ hi = hi' := by
  constructor
  · intro h
    exact ⟨by simpa using congrArg lo8 h, by simpa using congrArg hi8 h⟩
  · rintro ⟨rfl, rfl⟩
    rfl

/-- A message of at least 7 bytes is a header, a body and a trailer. -/
theorem exists_header_body_trailer {msg : Bytes} (h : 7 ≤ msg.length) :
    ∃ m l q t body lo hi e, msg = m :: l :: q :: t :: (body ++ [lo, hi, e]) ∧
      body.length + 7 = msg.length := by
  obtain ⟨m, l, q, t, rest, rfl⟩ : ∃ m l q t rest, msg = m :: l :: q :: t :: rest := by
    match msg, h with
    | m :: l :: q :: t :: rest, _ => exact ⟨m, l, q, t, rest, rfl⟩
  have hr : 3 ≤ rest.length := by simpa using h
  have hd : (rest.drop (rest.length - 3)).length = 3 := by simp; omega
  obtain ⟨lo, hi, e, htail⟩ : ∃ lo hi e, rest.drop (rest.length - 3) = [lo, hi, e] := by
    match rest.drop (rest.length - 3), hd with
    | [lo, hi, e], _ => exact ⟨lo, hi, e, rfl⟩
  refine ⟨m, l, q, t, rest.take (rest.length - 3), lo, hi, e, ?_, ?_⟩
  · rw [← htail, List.take_append_drop]
  · simp; omega

section Layout
variable (m l q t lo hi e : Byte) (body : Bytes)

@[simp] theorem spanOf_layout :
    spanOf (m :: l :: q :: t :: (body ++ [lo, hi, e])) = m :: l :: q :: t :: body := by
  simp [spanOf, slice, trailerLength]

@[simp] theorem bodyOf_layout : bodyOf (m :: l :: q :: t :: (body ++ [lo, hi, e])) = body := by
  simp [bodyOf, slice, headerLength, minFrame, trailerLength]

@[simp] theorem trailerCrc_layout :
    trailerCrc (m :: l :: q :: t :: (body ++ [lo, hi, e])) = ofLoHi lo hi := by
  simp [trailerCrc, byteAt]

@[simp] theorem byteAt_last_layout :
    byteAt (m :: l :: q :: t :: (body ++ [lo, hi, e])) (body.length + 6) = e := by
  simp [byteAt]

end Layout

@[simp] theorem byteAt_cons_zero (b : Byte) (s : Bytes) : byteAt (b :: s) 0 = b := rfl
@[simp] theorem byteAt_cons_succ (b : Byte) (s : Bytes) (i : Nat) :
    byteAt (b :: s) (i + 1) = byteAt s i := rfl

/-- The flags of a message written as header, body and trailer (R123). -/
theorem advisoryFlags_layout (p : Params) (m l q t lo hi e : Byte) (body : Bytes) :
    advisoryFlags p (m :: l :: q :: t :: (body ++ [lo, hi, e])) =
      packFlags (l.toNat != body.length + 5) (m != p.startMark) (e != p.endMark)
        (decide (64 ≤ q.toNat)) := by
  simp [advisoryFlags, lenMismatch, markMismatch, endMismatch, seqRange, byteAt, lengthAdjust, seqModulus]

/-- The raw fields of a message written as header, body and trailer (R120). -/
theorem rawFields_layout (p : Params) (m l q t lo hi e : Byte) (body : Bytes) :
    rawFields p (m :: l :: q :: t :: (body ++ [lo, hi, e])) =
      { type := t, rseq := q, lenf := l, rbody := body, crcRx := ofLoHi lo hi,
        crcCalc := p.crc16 (m :: l :: q :: t :: body),
        crcOk := p.crc16 (m :: l :: q :: t :: body) == ofLoHi lo hi,
        flags := packFlags (l.toNat != body.length + 5) (m != p.startMark) (e != p.endMark)
          (decide (64 ≤ q.toNat)) } := by
  simp [rawFields, advisoryFlags_layout, byteAt]

end Sys2Proof.Machine
end

