-- ==== Sys2Proof/Laws/Crc.lean ====
section
/-! SUPPORT. The shift registers of the checksum functions: one shift loses nothing, and is linear. -/

namespace Sys2Proof.Machine

theorem shiftMsb_injective : Function.Injective shiftMsb := by
  intro a b h
  have key : ∀ c : Word, (shiftMsb c).getLsbD 0 = c.msb := by
    intro c
    unfold shiftMsb
    split <;> rename_i hc <;> simp [hc]
  have hm : a.msb = b.msb := by rw [← key a, ← key b, h]
  have hs : a <<< 1 = b <<< 1 := by
    unfold shiftMsb at h
    rw [hm] at h
    split at h
    · exact (BitVec.xor_left_inj _).mp h
    · exact h
  apply BitVec.eq_of_getLsbD_eq
  intro i hi
  by_cases h15 : i = 15
  · subst h15
    simpa [BitVec.msb_eq_getLsbD_last] using hm
  · have := congrArg (fun v => BitVec.getLsbD v (i + 1)) hs
    simpa only [BitVec.getLsbD_shiftLeft, show i + 1 < 16 by omega, decide_true, Bool.true_and,
      show ¬ i + 1 < 1 by omega, decide_false, Bool.not_false, Nat.add_sub_cancel] using this

theorem shiftLsb_injective : Function.Injective shiftLsb := by
  intro a b h
  have key : ∀ c : Word, (shiftLsb c).getLsbD 15 = c.getLsbD 0 := by
    intro c
    unfold shiftLsb
    split <;> rename_i hc
    · rw [hc]; simp
    · rw [Bool.not_eq_true] at hc; rw [hc]; simp
  have hm : a.getLsbD 0 = b.getLsbD 0 := by rw [← key a, ← key b, h]
  have hs : a >>> 1 = b >>> 1 := by
    unfold shiftLsb at h
    rw [hm] at h
    split at h
    · exact (BitVec.xor_left_inj _).mp h
    · exact h
  apply BitVec.eq_of_getLsbD_eq
  intro i hi
  by_cases h0 : i = 0
  · subst h0
    exact hm
  · have := congrArg (fun v => BitVec.getLsbD v (i - 1)) hs
    simpa only [BitVec.getLsbD_ushiftRight, show 1 + (i - 1) = i by omega] using this

theorem shiftMsb_xor (a b : Word) : shiftMsb (a ^^^ b) = shiftMsb a ^^^ shiftMsb b := by
  unfold shiftMsb
  rw [BitVec.msb_xor, BitVec.shiftLeft_xor_distrib]
  cases a.msb <;> cases b.msb <;> simp <;> ac_nf; simp

theorem shiftMsb_zero : shiftMsb 0x0000#16 = 0x0000#16 := by decide

@[simp] theorem crcMsbFrom_nil (c : Word) : crcMsbFrom c [] = c := rfl
@[simp] theorem crcMsbFrom_cons (c : Word) (b : Byte) (s : Bytes) :
    crcMsbFrom c (b :: s) = crcMsbFrom (byteMsb c b) s := rfl
theorem crcMsbFrom_append (c : Word) (s s' : Bytes) :
    crcMsbFrom c (s ++ s') = crcMsbFrom (crcMsbFrom c s) s' := List.foldl_append ..

/-- Taking in a given byte loses nothing of the register. -/
theorem byteMsb_injective (b : Byte) : Function.Injective fun c => byteMsb c b := by
  intro a c h
  exact (BitVec.xor_left_inj _).mp (shiftMsb_injective.iterate 8 h)

/-- As `byteMsb_injective`, for the reflected form. -/
theorem byteLsb_injective (b : Byte) : Function.Injective fun c => byteLsb c b := by
  intro a c h
  exact (BitVec.xor_left_inj _).mp (shiftLsb_injective.iterate 8 h)

theorem shiftMsb_iterate_xor (n : Nat) (a b : Word) :
    shiftMsb^[n] (a ^^^ b) = shiftMsb^[n] a ^^^ shiftMsb^[n] b := by
  induction n generalizing a b with
  | zero => rfl
  | succ n ih => simp only [Function.iterate_succ, Function.comp, shiftMsb_xor, ih]

/-- One byte is linear in the register and the byte together. -/
theorem byteMsb_xor (a b : Word) (x y : Byte) :
    byteMsb (a ^^^ b) (x ^^^ y) = byteMsb a x ^^^ byteMsb b y := by
  unfold byteMsb
  rw [← shiftMsb_iterate_xor, BitVec.setWidth_xor, BitVec.shiftLeft_xor_distrib]
  congr 1
  ac_rfl

end Sys2Proof.Machine
end

