-- ==== Sys2Proof/Laws/Decode.lean ====
section
/-! SUPPORT. The decoder: the seven type codes and the command words. -/

namespace Sys2Proof

@[simp] theorem typeOfCode_typeCode (t : FrameType) : typeOfCode (typeCode t) = some t := by
  cases t <;> decide

/-- A type byte names a type exactly when it is that type's code. -/
theorem typeOfCode_eq_some {b : Byte} {t : FrameType} : typeOfCode b = some t ↔ b = typeCode t := by
  constructor
  · intro h
    unfold typeOfCode at h
    split_ifs at h <;> (cases h; assumption)
  · rintro rfl
    exact typeOfCode_typeCode t

theorem opField_toNat (w : Word) : (opField w).toNat = w.toNat / 256 := by
  have := w.isLt
  simp [opField, BitVec.extractLsb'_toNat, Nat.shiftRight_eq_div_pow]
  omega

theorem argField_toNat (w : Word) : (argField w).toNat = w.toNat % 256 := by
  simp [argField, BitVec.extractLsb'_toNat]

theorem opField_eq_iff (w : Word) (b : Byte) : opField w = b ↔ w.toNat / 256 = b.toNat := by
  rw [← opField_toNat]
  exact ⟨fun h => by rw [h], BitVec.eq_of_toNat_eq⟩

theorem argField_eq_iff (w : Word) (b : Byte) : argField w = b ↔ w.toNat % 256 = b.toNat := by
  rw [← argField_toNat]
  exact ⟨fun h => by rw [h], BitVec.eq_of_toNat_eq⟩

/-- A command word is its two fields. -/
theorem word_eq_of_fields {w : Word} {op arg : Byte} (h1 : opField w = op) (h2 : argField w = arg) :
    w = commandWord op arg := by
  rw [opField_eq_iff] at h1
  rw [argField_eq_iff] at h2
  apply BitVec.eq_of_toNat_eq
  rw [commandWord, BitVec.toNat_append, ← Nat.shiftLeft_add_eq_or_of_lt arg.isLt, Nat.shiftLeft_eq, ← h1, ← h2]
  omega

/-- Everything the decoder can read from a command. -/
theorem decodeCommand_cases (c : Command) :
    (∃ t, opField c.word = 0x01#8 ∧ argField c.word = typeCode t ∧
      decodeCommand c = .instr (encInstr t c.seq c.body)) ∨
    (opField c.word = 0x01#8 ∧ typeOfCode (argField c.word) = none ∧ decodeCommand c = .rejected .unknownTag) ∨
    (c.word = 0x0200#16 ∧ decodeCommand c = .instr (.dec c.msg)) ∨
    (c.word = 0x0300#16 ∧ decodeCommand c = .instr (.crc c.msg)) ∨
    (c.word = 0x0400#16 ∧ decodeCommand c = .instr .seqNext) ∨
    (c.word = 0x0500#16 ∧ decodeCommand c = .instr .seqRead) ∨
    (opField c.word ≠ 0x01#8 ∧ c.word ∉ [0x0200#16, 0x0300#16, 0x0400#16, 0x0500#16] ∧
      decodeCommand c = .rejected .illegalCmd) := by
  by_cases h1 : opField c.word = 0x01#8
  · cases ht : typeOfCode (argField c.word) with
    | some t => exact .inl ⟨t, h1, typeOfCode_eq_some.mp ht, by rw [decodeCommand, if_pos h1, ht]⟩
    | none => exact .inr (.inl ⟨h1, rfl, by rw [decodeCommand, if_pos h1, ht]⟩)
  refine .inr (.inr ?_)
  have field : ∀ v : Word, c.word = v → opField c.word = opField v ∧ argField c.word = argField v := by
    rintro v rfl
    exact ⟨rfl, rfl⟩
  have illegal : (∀ v ∈ [0x0200#16, 0x0300#16, 0x0400#16, 0x0500#16], c.word ≠ v) →
      c.word ∉ [0x0200#16, 0x0300#16, 0x0400#16, 0x0500#16] := fun h hm => h _ hm rfl
  by_cases ha : argField c.word = 0x00#8
  · by_cases h2 : opField c.word = 0x02#8
    · exact .inl ⟨word_eq_of_fields h2 ha, by rw [decodeCommand, if_neg h1, if_pos h2, decodePlain, if_pos ha]⟩
    by_cases h3 : opField c.word = 0x03#8
    · exact .inr (.inl ⟨word_eq_of_fields h3 ha, by
        rw [decodeCommand, if_neg h1, if_neg h2, if_pos h3, decodePlain, if_pos ha]⟩)
    by_cases h4 : opField c.word = 0x04#8
    · exact .inr (.inr (.inl ⟨word_eq_of_fields h4 ha, by
        rw [decodeCommand, if_neg h1, if_neg h2, if_neg h3, if_pos h4, decodePlain, if_pos ha]⟩))
    by_cases h5 : opField c.word = 0x05#8
    · exact .inr (.inr (.inr (.inl ⟨word_eq_of_fields h5 ha, by
        rw [decodeCommand, if_neg h1, if_neg h2, if_neg h3, if_neg h4, if_pos h5, decodePlain, if_pos ha]⟩)))
    refine .inr (.inr (.inr (.inr ⟨h1, illegal ?_, by
      rw [decodeCommand, if_neg h1, if_neg h2, if_neg h3, if_neg h4, if_neg h5]⟩)))
    intro v hv hw
    simp only [List.mem_cons, List.not_mem_nil, or_false] at hv
    rcases hv with rfl | rfl | rfl | rfl
    · exact h2 ((field _ hw).1.trans (by decide))
    · exact h3 ((field _ hw).1.trans (by decide))
    · exact h4 ((field _ hw).1.trans (by decide))
    · exact h5 ((field _ hw).1.trans (by decide))
  · refine .inr (.inr (.inr (.inr ⟨h1, illegal ?_, ?_⟩)))
    · intro v hv hw
      simp only [List.mem_cons, List.not_mem_nil, or_false] at hv
      rcases hv with rfl | rfl | rfl | rfl <;> exact ha ((field _ hw).2.trans (by decide))
    · simp only [decodeCommand, decodePlain, if_neg h1, if_neg ha, ite_self]

end Sys2Proof
end

