-- ==== Sys2Proof/Laws/State.lean ====
section
/-! SUPPORT. One lemma per field per update, so that no proof unfolds a record update. -/

namespace Sys2Proof.Machine

@[simp] theorem pushResponse_config (r : Response) (s : State) : (pushResponse r s).config = s.config := rfl
@[simp] theorem pushResponse_seq (r : Response) (s : State) : (pushResponse r s).seq = s.seq := rfl
@[simp] theorem pushResponse_inbox (r : Response) (s : State) : (pushResponse r s).inbox = s.inbox := rfl
@[simp] theorem pushResponse_outbox (r : Response) (s : State) :
    (pushResponse r s).outbox = s.outbox ++ [r] := rfl
@[simp] theorem readSeq_pushResponse (r : Response) (s : State) :
    readSeq (pushResponse r s) = readSeq s := rfl

@[simp] theorem writeSeq_config (v : Byte) (s : State) : (writeSeq v s).config = s.config := rfl
@[simp] theorem writeSeq_seq (v : Byte) (s : State) : (writeSeq v s).seq = hardwire v := rfl
@[simp] theorem writeSeq_inbox (v : Byte) (s : State) : (writeSeq v s).inbox = s.inbox := rfl
@[simp] theorem writeSeq_outbox (v : Byte) (s : State) : (writeSeq v s).outbox = s.outbox := rfl

@[simp] theorem resetInstance_config (s : State) : (resetInstance s).config = s.config := rfl
@[simp] theorem resetInstance_seq (s : State) : (resetInstance s).seq = 0#8 := rfl
@[simp] theorem resetInstance_inbox (s : State) : (resetInstance s).inbox = s.inbox := rfl
@[simp] theorem resetInstance_outbox (s : State) : (resetInstance s).outbox = s.outbox := rfl

@[simp] theorem resetWith_config (c : Config) : (State.resetWith c).config = c := rfl
@[simp] theorem resetWith_seq (c : Config) : (State.resetWith c).seq = 0#8 := rfl
@[simp] theorem resetWith_inbox (c : Config) : (State.resetWith c).inbox = [] := rfl
@[simp] theorem resetWith_outbox (c : Config) : (State.resetWith c).outbox = [] := rfl

@[simp] theorem withFetchWord_config (s : State) (n w : Nat) : (s.withFetchWord n w).config = s.config := rfl
@[simp] theorem withFetchWord_seq (s : State) (n w : Nat) : (s.withFetchWord n w).seq = s.seq := rfl
@[simp] theorem withFetchWord_inbox (s : State) (n w : Nat) :
    (s.withFetchWord n w).inbox = .request (tableRequest n w) :: s.inbox := rfl
@[simp] theorem withFetchWord_outbox (s : State) (n w : Nat) : (s.withFetchWord n w).outbox = s.outbox := rfl

@[simp] theorem readSeq_inbox (s : State) (l : List Event) : readSeq { s with inbox := l } = readSeq s := rfl

end Sys2Proof.Machine
end

