-- ==== Sys2Proof/Laws/Ops.lean ====
section
/-! SUPPORT. One lemma per shared operation that says what it can do, and the inversion of `exec` and `step`. -/

namespace Sys2Proof.Machine

theorem hardwire_toNat (v : Byte) : (hardwire v).toNat = v.toNat % 64 := by
  unfold hardwire
  rw [BitVec.toNat_and]
  exact Nat.and_two_pow_sub_one_eq_mod v.toNat 6

theorem readSeq_lt (s : State) : (readSeq s).toNat < 64 := by
  rw [readSeq, hardwire_toNat]
  exact Nat.mod_lt _ (by decide)

theorem hardwire_of_lt {v : Byte} (h : v.toNat < 64) : hardwire v = v := by
  apply BitVec.eq_of_toNat_eq
  rw [hardwire_toNat, Nat.mod_eq_of_lt h]

theorem seqAfter_toNat (c : Byte) : (seqAfter c).toNat = (c.toNat + 1) % 64 := by
  have h : (c.toNat + 1) % 64 < 64 := Nat.mod_lt _ (by decide)
  simp only [seqAfter, seqModulus, BitVec.toNat_ofNat]
  exact Nat.mod_eq_of_lt (by omega)

theorem reduceSeq_toNat (c : Byte) : (reduceSeq c).toNat = c.toNat % 64 := by
  have h : c.toNat % 64 < 64 := Nat.mod_lt _ (by decide)
  simp only [reduceSeq, seqModulus, BitVec.toNat_ofNat]
  exact Nat.mod_eq_of_lt (by omega)

@[simp] theorem hardwire_seqAfter (c : Byte) : hardwire (seqAfter c) = seqAfter c :=
  hardwire_of_lt (by rw [seqAfter_toNat]; exact Nat.mod_lt _ (by decide))

@[simp] theorem readSeq_writeSeq_seqAfter (c : Byte) (s : State) :
    readSeq (writeSeq (seqAfter c) s) = seqAfter c := by
  simp [readSeq]

@[simp] theorem readSeq_resetInstance (s : State) : readSeq (resetInstance s) = 0#8 := by
  simp [readSeq, hardwire]

/-- The response an instruction gives in a state. -/
def answerOf (i : Instr) (s : State) : Response :=
  match i with
  | .encS seq body => encodeResponse (paramsOf s.config) .negotiate seq body
  | .encF seq body => encodeResponse (paramsOf s.config) .fileHeader seq body
  | .encD seq body => encodeResponse (paramsOf s.config) .data seq body
  | .encZ seq body => encodeResponse (paramsOf s.config) .endOfFile seq body
  | .encB seq body => encodeResponse (paramsOf s.config) .endOfTransmission seq body
  | .encY seq body => encodeResponse (paramsOf s.config) .ack seq body
  | .encN seq body => encodeResponse (paramsOf s.config) .nak seq body
  | .dec msg => decodeFrame (paramsOf s.config) msg
  | .crc msg => checksumAnswer (paramsOf s.config) msg
  | .seqNext => valueResponse (seqAfter (readSeq s))
  | .seqRead => valueResponse (readSeq s)
  | .frameS m l q rest =>
    frameRowResponse (paramsOf s.config) (fun n => n == 18) (frameMessage .negotiate m l q rest)
  | .frameF m l q rest =>
    frameRowResponse (paramsOf s.config) (fun n => decide (7 ≤ n) && decide (n ≤ 257))
      (frameMessage .fileHeader m l q rest)
  | .frameD m l q rest =>
    frameRowResponse (paramsOf s.config) (fun n => decide (7 ≤ n) && decide (n ≤ 257))
      (frameMessage .data m l q rest)
  | .frameZ m l q rest =>
    frameRowResponse (paramsOf s.config) (fun n => n == 7) (frameMessage .endOfFile m l q rest)
  | .frameB m l q rest =>
    frameRowResponse (paramsOf s.config) (fun n => n == 7) (frameMessage .endOfTransmission m l q rest)
  | .frameY m l q rest =>
    frameRowResponse (paramsOf s.config) (fun n => n == 7) (frameMessage .ack m l q rest)
  | .frameN m l q rest =>
    frameRowResponse (paramsOf s.config) (fun n => n == 7) (frameMessage .nak m l q rest)

/-- What `SEQ` holds after an instruction. -/
def seqAfterInstr (i : Instr) (s : State) : Byte :=
  match i with
  | .seqNext => seqAfter (readSeq s)
  | _ => s.seq

/-- Everything an instruction can do: it answers, and only `SEQ.NEXT` moves `SEQ`. -/
theorem exec_eq (i : Instr) (s : State) :
    exec i s = .next { s with seq := seqAfterInstr i s, outbox := s.outbox ++ [answerOf i s] } := by
  cases i
  case seqNext =>
    simp [exec, execSeqNext, respond, pushResponse, answerOf, seqAfterInstr, writeSeq, readSeq]
  all_goals rfl

theorem exec_encInstr (t : FrameType) (seq : Byte) (body : Bytes) (s : State) :
    exec (encInstr t seq body) s = respond (encodeResponse (paramsOf s.config) t seq body) s := by
  cases t <;> rfl

theorem step_nil {s : State} (h : s.inbox = []) : step s = .next s := by
  unfold step takeEvent
  rw [h]

theorem step_reset {s : State} {rest : List Event} (h : s.inbox = .reset :: rest) :
    step s = .next (resetInstance { s with inbox := rest }) := by
  unfold step takeEvent
  rw [h]
  rfl

theorem step_request {s : State} {r : Request} {rest : List Event} (h : s.inbox = .request r :: rest) :
    step s = serveRequest r { s with inbox := rest } := by
  unfold step takeEvent
  rw [h]
  rfl

/-- Everything serving a request can do. -/
theorem serveRequest_cases (r : Request) (s : State) :
    (r.formable = false ∧ serveRequest r s = .refused .operandTooLong) ∨
    (r.formable = true ∧ ∃ i, decodeRequest r = .instr i ∧ serveRequest r s = exec i s) ∨
    (r.formable = true ∧ ∃ why, decodeRequest r = .rejected why ∧
      serveRequest r s = respond (rejectionResponse (paramsOf s.config) r why) s) := by
  unfold serveRequest serveFormed
  cases hf : r.formable
  · exact .inl ⟨rfl, rfl⟩
  · cases hd : decodeRequest r with
    | instr i => exact .inr (.inl ⟨rfl, i, rfl, rfl⟩)
    | rejected why => exact .inr (.inr ⟨rfl, why, rfl, rfl⟩)

/-- Everything a step that answers a next state can have done. -/
theorem step_next_cases {s s' : State} (h : step s = .next s') :
    (s.inbox = [] ∧ s' = s) ∨
    (∃ rest, s.inbox = .reset :: rest ∧ s' = resetInstance { s with inbox := rest }) ∨
    (∃ r rest i, s.inbox = .request r :: rest ∧ r.formable = true ∧ decodeRequest r = .instr i ∧
      s' = { s with inbox := rest, seq := seqAfterInstr i s, outbox := s.outbox ++ [answerOf i s] }) ∨
    (∃ r rest why, s.inbox = .request r :: rest ∧ r.formable = true ∧ decodeRequest r = .rejected why ∧
      s' = { s with
        inbox := rest
        outbox := s.outbox ++ [rejectionResponse (paramsOf s.config) r why] }) := by
  match hi : s.inbox with
  | [] =>
    rw [step_nil hi] at h
    injection h with h
    exact .inl ⟨rfl, h.symm⟩
  | .reset :: rest =>
    rw [step_reset hi] at h
    injection h with h
    exact .inr (.inl ⟨rest, rfl, h.symm⟩)
  | .request r :: rest =>
    rw [step_request hi] at h
    have seq_inbox : ∀ i, seqAfterInstr i { s with inbox := rest } = seqAfterInstr i s := by
      intro i; cases i <;> rfl
    have answer_inbox : ∀ i, answerOf i { s with inbox := rest } = answerOf i s := by
      intro i; cases i <;> rfl
    rcases serveRequest_cases r { s with inbox := rest } with ⟨_, h2⟩ | ⟨hf, i, hd, h2⟩ | ⟨hf, why, hd, h2⟩
    · rw [h2] at h
      cases h
    · rw [h2, exec_eq] at h
      injection h with h
      refine .inr (.inr (.inl ⟨r, rest, i, rfl, hf, hd, ?_⟩))
      rw [← h, seq_inbox, answer_inbox]
    · rw [h2] at h
      injection h with h
      exact .inr (.inr (.inr ⟨r, rest, why, rfl, hf, hd, h.symm⟩))

@[simp] theorem runSteps_zero (s : State) : runSteps 0 s = .next s := rfl

theorem runSteps_succ_of_next {k : Nat} {s s' : State} (h : step s = .next s') :
    runSteps (k + 1) s = runSteps k s' := by
  rw [runSteps, h]

/-- A run of `k + 1` steps that ends in a next state took a first step and then ran `k`. -/
theorem runSteps_succ_next {k : Nat} {s t : State} (h : runSteps (k + 1) s = .next t) :
    ∃ s', step s = .next s' ∧ runSteps k s' = .next t := by
  rw [runSteps] at h
  split at h
  · exact ⟨_, ‹_›, h⟩
  · cases h
  · cases h

/-- Everything the size and checksum tests can answer (R120, R183). -/
theorem sizeAndChecksum_cases (p : Params) (msg : Bytes) (judge : RawFields → Status) :
    (msg.length < 7 ∧ sizeAndChecksum p msg judge = bareResponse .tooShort) ∨
    (257 < msg.length ∧ sizeAndChecksum p msg judge = bareResponse .tooLong) ∨
    (7 ≤ msg.length ∧ msg.length ≤ 257 ∧ (rawFields p msg).crcOk = false ∧
      sizeAndChecksum p msg judge = rawResponse .badCrc (rawFields p msg)) ∨
    (7 ≤ msg.length ∧ msg.length ≤ 257 ∧ (rawFields p msg).crcOk = true ∧
      sizeAndChecksum p msg judge = rawResponse (judge (rawFields p msg)) (rawFields p msg)) := by
  unfold sizeAndChecksum
  simp only [minFrame, maxFrame, headerLength, trailerLength, maxBody]
  by_cases h1 : msg.length < 7
  · exact .inl ⟨h1, if_pos h1⟩
  · by_cases h2 : 257 < msg.length
    · exact .inr (.inl ⟨h2, by rw [if_neg h1, if_pos h2]⟩)
    · cases hc : (rawFields p msg).crcOk
      · exact .inr (.inr (.inl ⟨by omega, by omega, rfl, by rw [if_neg h1, if_neg h2]; rfl⟩))
      · exact .inr (.inr (.inr ⟨by omega, by omega, rfl, by rw [if_neg h1, if_neg h2]; rfl⟩))

/-- A body whose shape is its type's is at most 250 bytes long. -/
theorem shapeOk_le {t : FrameType} {b : Nat} (h : shapeOk t b = true) : b ≤ 250 := by
  cases t <;> simp [shapeOk, optionLength, maxBody] at h <;> omega

@[simp] theorem answerOf_encInstr (t : FrameType) (seq : Byte) (body : Bytes) (s : State) :
    answerOf (encInstr t seq body) s = encodeResponse (paramsOf s.config) t seq body := by
  cases t <;> rfl

@[simp] theorem seqAfterInstr_encInstr (t : FrameType) (seq : Byte) (body : Bytes) (s : State) :
    seqAfterInstr (encInstr t seq body) s = s.seq := by
  cases t <;> rfl

/-- The frame written out as header, body and trailer (R100). -/
theorem encodeFrame_eq (p : Params) (t : FrameType) (seq : Byte) (body : Bytes) :
    let span := p.startMark :: BitVec.ofNat 8 (body.length + 5) :: reduceSeq seq :: typeCode t :: body
    encodeFrame p t seq body =
      (p.startMark :: BitVec.ofNat 8 (body.length + 5) :: reduceSeq seq :: typeCode t ::
        (body ++ [lo8 (p.crc16 span), hi8 (p.crc16 span), p.endMark]), p.crc16 span) := by
  have h : headerLength + body.length + trailerLength - lengthAdjust = body.length + 5 := by
    simp [headerLength, trailerLength, lengthAdjust]
    omega
  simp only [encodeFrame, h, List.cons_append, List.nil_append]

/-- A message without a FRAME row is answered by the general rule R120 (R77, R132; log entries 6 and 13). -/
@[simp] theorem rejectionResponse_noFrameRow (p : Params) (msg : Bytes) :
    rejectionResponse p (.message msg) .noFrameRow = decodeFrame p msg := rfl

/-- The size and checksum tests on a message written as header, body and trailer. -/
theorem sizeAndChecksum_layout (p : Params) (m l q t lo hi e : Byte) (body : Bytes)
    (judge : RawFields → Status) (h : body.length ≤ 250) :
    let msg := m :: l :: q :: t :: (body ++ [lo, hi, e])
    sizeAndChecksum p msg judge =
      if p.crc16 (m :: l :: q :: t :: body) = ofLoHi lo hi then rawResponse (judge (rawFields p msg)) (rawFields p msg)
      else rawResponse .badCrc (rawFields p msg) := by
  intro msg
  unfold sizeAndChecksum
  rw [if_neg (by simp [msg, minFrame, headerLength, trailerLength]),
    if_neg (by simp [msg, maxFrame, headerLength, trailerLength, maxBody]; omega)]
  simp [msg, rawFields_layout]

/-- A message's type and shape verdict, for a known type. -/
theorem typeAndShape_of_known {raw : RawFields} {t : FrameType} (h : raw.type = typeCode t) :
    typeAndShape raw = if shapeOk t raw.rbody.length then .ok else .badBody := by
  unfold typeAndShape
  rw [typeOfCode_eq_some.mpr h]

/-- The four flags read back from their packing. -/
theorem packFlags_getLsbD (a b c d : Bool) :
    (packFlags a b c d).getLsbD 0 = a ∧ (packFlags a b c d).getLsbD 1 = b ∧
    (packFlags a b c d).getLsbD 2 = c ∧ (packFlags a b c d).getLsbD 3 = d := by
  revert a b c d
  decide

end Sys2Proof.Machine
end

