-- ==== Sys2Proof/Laws/PerInstr.lean ====
section
/-! SUPPORT. Per instruction, as syntax: the request of an instruction can be formed exactly when the
instruction is well formed. -/

namespace Sys2Proof.Laws.Formable

/-- The interface can form an instruction's request exactly when the instruction is well formed (R32). -/
def Statement (i : Instr) : Prop := (encodeInstr i).formable = i.wf

theorem encS (seq : Byte) (body : Bytes) : Statement (.encS seq body) := by
  simp [Statement, encodeInstr, Request.formable, Instr.wf]
theorem encF (seq : Byte) (body : Bytes) : Statement (.encF seq body) := by
  simp [Statement, encodeInstr, Request.formable, Instr.wf]
theorem encD (seq : Byte) (body : Bytes) : Statement (.encD seq body) := by
  simp [Statement, encodeInstr, Request.formable, Instr.wf]
theorem encZ (seq : Byte) (body : Bytes) : Statement (.encZ seq body) := by
  simp [Statement, encodeInstr, Request.formable, Instr.wf]
theorem encB (seq : Byte) (body : Bytes) : Statement (.encB seq body) := by
  simp [Statement, encodeInstr, Request.formable, Instr.wf]
theorem encY (seq : Byte) (body : Bytes) : Statement (.encY seq body) := by
  simp [Statement, encodeInstr, Request.formable, Instr.wf]
theorem encN (seq : Byte) (body : Bytes) : Statement (.encN seq body) := by
  simp [Statement, encodeInstr, Request.formable, Instr.wf]
theorem dec (msg : Bytes) : Statement (.dec msg) := by
  simp [Statement, encodeInstr, Request.formable, Instr.wf]
theorem crc (msg : Bytes) : Statement (.crc msg) := by
  simp [Statement, encodeInstr, Request.formable, Instr.wf]
theorem seqNext : Statement .seqNext := rfl
theorem seqRead : Statement .seqRead := rfl
theorem frameS (mark lenf rseq : Byte) (rest : Bytes) : Statement (.frameS mark lenf rseq rest) := by
  simp [Statement, encodeInstr, Request.formable, Instr.wf, headerLength, maxOperand]; omega
theorem frameF (mark lenf rseq : Byte) (rest : Bytes) : Statement (.frameF mark lenf rseq rest) := by
  simp [Statement, encodeInstr, Request.formable, Instr.wf, headerLength, maxOperand]; omega
theorem frameD (mark lenf rseq : Byte) (rest : Bytes) : Statement (.frameD mark lenf rseq rest) := by
  simp [Statement, encodeInstr, Request.formable, Instr.wf, headerLength, maxOperand]; omega
theorem frameZ (mark lenf rseq : Byte) (rest : Bytes) : Statement (.frameZ mark lenf rseq rest) := by
  simp [Statement, encodeInstr, Request.formable, Instr.wf, headerLength, maxOperand]; omega
theorem frameB (mark lenf rseq : Byte) (rest : Bytes) : Statement (.frameB mark lenf rseq rest) := by
  simp [Statement, encodeInstr, Request.formable, Instr.wf, headerLength, maxOperand]; omega
theorem frameY (mark lenf rseq : Byte) (rest : Bytes) : Statement (.frameY mark lenf rseq rest) := by
  simp [Statement, encodeInstr, Request.formable, Instr.wf, headerLength, maxOperand]; omega
theorem frameN (mark lenf rseq : Byte) (rest : Bytes) : Statement (.frameN mark lenf rseq rest) := by
  simp [Statement, encodeInstr, Request.formable, Instr.wf, headerLength, maxOperand]; omega

end Sys2Proof.Laws.Formable
end

