-- ==== Sys2Proof/Tests/Slice0.lean ====
section
/-! SUPPORT. The model's own tests. Expected values are the spec's: the worked examples of R102 to R108, R125 to
R131, R138, R152, R171, R172 and the vectors of 95_test_vectors.md, which use the default parameters. Then the
well-formedness smoke tests, and a witness for the hypotheses of each statement. -/

namespace Sys2Proof.Tests

open Sys2Proof Sys2Proof.Machine Sys2Proof.Statements

/-- The reset state with one event to serve. -/
def one (e : Event) : State := { State.reset with inbox := [e] }

/-- The response a step gives last, if it answers. -/
def lastAnswer (o : Host.Outcome State Fault Refusal) : Option Response :=
  match o with
  | .next s => s.outbox.getLast?
  | _ => none

/-- What `SEQ` holds after a step, if it answers. -/
def seqOf (o : Host.Outcome State Fault Refusal) : Option Byte :=
  match o with
  | .next s => some s.seq
  | _ => none

/-- The bytes of a text of one-byte codes. -/
def bytes (l : List Nat) : Bytes := l.map (BitVec.ofNat 8)

/-! ### Decoding: a word written out from R81 or R79 for every constructor -/

theorem test_decode_encS : decodeTableWord 16 0b0000000101010011 = some (.encS 0 []) := by decide
theorem test_decode_encF : decodeTableWord 16 0b0000000101000110 = some (.encF 0 []) := by decide
theorem test_decode_encD : decodeTableWord 16 0b0000000101000100 = some (.encD 0 []) := by decide
theorem test_decode_encZ : decodeTableWord 16 0b0000000101011010 = some (.encZ 0 []) := by decide
theorem test_decode_encB : decodeTableWord 16 0b0000000101000010 = some (.encB 0 []) := by decide
theorem test_decode_encY : decodeTableWord 16 0b0000000101011001 = some (.encY 0 []) := by decide
theorem test_decode_encN : decodeTableWord 16 0b0000000101001110 = some (.encN 0 []) := by decide
theorem test_decode_dec : decodeTableWord 16 0b0000001000000000 = some (.dec []) := by decide
theorem test_decode_crc : decodeTableWord 16 0b0000001100000000 = some (.crc []) := by decide
theorem test_decode_seqNext : decodeTableWord 16 0b0000010000000000 = some .seqNext := by decide
theorem test_decode_seqRead : decodeTableWord 16 0b0000010100000000 = some .seqRead := by decide
theorem test_decode_frameS :
    decodeTableWord 32 0b00000001000100000000001001010011 = some (.frameS 1 16 2 [0, 0, 0]) := by decide
theorem test_decode_frameF :
    decodeTableWord 32 0b00000001000001010000001001000110 = some (.frameF 1 5 2 [0, 0, 0]) := by decide
theorem test_decode_frameD :
    decodeTableWord 32 0b00000001000001010000001001000100 = some (.frameD 1 5 2 [0, 0, 0]) := by decide
theorem test_decode_frameZ :
    decodeTableWord 32 0b00000001000001010000001001011010 = some (.frameZ 1 5 2 [0, 0, 0]) := by decide
theorem test_decode_frameB :
    decodeTableWord 32 0b00000001000001010000001001000010 = some (.frameB 1 5 2 [0, 0, 0]) := by decide
theorem test_decode_frameY :
    decodeTableWord 8 0b01011001 = some (.frameY 0 0 0 [0, 0, 0]) := by decide
theorem test_decode_frameN :
    decodeTableWord 32 0b00000001000001010000001001001110 = some (.frameN 1 5 2 [0, 0, 0]) := by decide

/-- 95_test_vectors.md 2.6: reserved words and unknown tags are no instruction. -/
theorem test_decode_reserved :
    [0x0000, 0x0001, 0x0201, 0x03FF, 0x0401, 0x0553, 0x0600, 0x5300, 0xFFFF].map
      (fun w => decodeRequest (tableRequest 16 w)) = List.replicate 9 (.rejected .illegalCmd) ∧
    [0x0100, 0x0158, 0x0173, 0x0179].map
      (fun w => decodeRequest (tableRequest 16 w)) = List.replicate 4 (.rejected .unknownTag) := by decide

/-- R77: a lower-case type byte selects no FRAME row. -/
theorem test_decode_lower_case : decodeTableWord 32 0x01050079 = none := by decide

/-! ### One step of each instruction -/

theorem test_encS : lastAnswer (step (one (issue (.encS 9 (List.replicate 11 0xFF#8))))) =
    some (encodedResponse (bytes [0x01, 0x10, 0x09, 0x53, 0xFF, 0xFF, 0xFF, 0xFF, 0xFF, 0xFF, 0xFF, 0xFF, 0xFF,
      0xFF, 0xFF, 0x6E, 0x37, 0x0D]) 0x376E#16) := by decide +kernel
theorem test_encS_ten_bytes : lastAnswer (step (one (issue (.encS 0 (List.replicate 10 0#8))))) =
    some (bareResponse .badBody) := by decide +kernel
theorem test_encF_empty_name : lastAnswer (step (one (issue (.encF 7 [])))) =
    some (encodedResponse (bytes [0x01, 0x05, 0x07, 0x46, 0xD1, 0x2C, 0x0D]) 0x2CD1#16) := by decide +kernel
theorem test_encF_251_bytes : lastAnswer (step (one (issue (.encF 0 (List.replicate 251 0#8))))) =
    some (bareResponse .badBody) := by decide +kernel
theorem test_encD_marker_bytes : lastAnswer (step (one (issue (.encD 2 (bytes [0x01, 0x0D, 0x00, 0xFF]))))) =
    some (encodedResponse (bytes [0x01, 0x09, 0x02, 0x44, 0x01, 0x0D, 0x00, 0xFF, 0x24, 0x55, 0x0D]) 0x5524#16) := by
  decide +kernel
theorem test_encZ : lastAnswer (step (one (issue (.encZ 3 [])))) =
    some (encodedResponse (bytes [0x01, 0x05, 0x03, 0x5A, 0xA8, 0x33, 0x0D]) 0x33A8#16) := by decide +kernel
theorem test_encB : lastAnswer (step (one (issue (.encB 4 [])))) =
    some (encodedResponse (bytes [0x01, 0x05, 0x04, 0x42, 0x06, 0x39, 0x0D]) 0x3906#16) := by decide +kernel
theorem test_encY_reduces_200 : lastAnswer (step (one (issue (.encY 200 [])))) =
    some (encodedResponse (bytes [0x01, 0x05, 0x08, 0x59, 0x31, 0xDF, 0x0D]) 0xDF31#16) := by decide +kernel
theorem test_encN : lastAnswer (step (one (issue (.encN 5 [])))) =
    some (encodedResponse (bytes [0x01, 0x05, 0x05, 0x4E, 0xBB, 0xCB, 0x0D]) 0xCBBB#16) := by decide +kernel
theorem test_encN_one_byte : lastAnswer (step (one (issue (.encN 0 [1])))) =
    some (bareResponse .badBody) := by decide +kernel

theorem test_dec_bad_crc : lastAnswer (step (one (issue (.dec (bytes
      [0x01, 0x0A, 0x02, 0x44, 0x48, 0x65, 0x6C, 0x6C, 0x6E, 0xDB, 0xBD, 0x0D]))))) =
    some (rawResponse .badCrc ⟨0x44#8, 2#8, 0x0A#8, bytes [0x48, 0x65, 0x6C, 0x6C, 0x6E], 0xBDDB#16, 0xADFA#16,
      false, 0b0000#4⟩) := by decide +kernel
theorem test_dec_six_bytes : lastAnswer (step (one (issue (.dec (List.replicate 6 0#8))))) =
    some (bareResponse .tooShort) := by decide
theorem test_crc_check_value : lastAnswer (step (one (issue (.crc (bytes
      [0x31, 0x32, 0x33, 0x34, 0x35, 0x36, 0x37, 0x38, 0x39]))))) = some (checksumResponse 0x31C3#16) := by
  decide +kernel
theorem test_crc_258_bytes : lastAnswer (step (one (issue (.crc (List.replicate 258 0#8))))) =
    some (bareResponse .tooLong) := by decide +kernel
theorem test_seqNext_wraps :
    lastAnswer (step { one (issue .seqNext) with seq := 63#8 }) = some (valueResponse 0#8) ∧
    seqOf (step { one (issue .seqNext) with seq := 63#8 }) = some 0#8 := by decide +kernel
theorem test_seqRead_leaves_seq :
    lastAnswer (step { one (issue .seqRead) with seq := 5#8 }) = some (valueResponse 5#8) ∧
    seqOf (step { one (issue .seqRead) with seq := 5#8 }) = some 5#8 := by decide +kernel

theorem test_frameS_ten_bytes : lastAnswer (step (one (issue (.frameS 0x01 0x0F 0x00
      (List.replicate 10 0#8 ++ bytes [0x21, 0xD3, 0x0D]))))) =
    some (rawResponse .badBody ⟨0x53#8, 0#8, 0x0F#8, List.replicate 10 0#8, 0xD321#16, 0xD321#16, true,
      0b0000#4⟩) := by decide +kernel
theorem test_frameF : lastAnswer (step (one (issue (.frameF 0x01 0x0A 0x01
      (bytes [0x61, 0x2E, 0x74, 0x78, 0x74, 0x7D, 0xB8, 0x0D]))))) =
    some (rawResponse .ok ⟨0x46#8, 1#8, 0x0A#8, bytes [0x61, 0x2E, 0x74, 0x78, 0x74], 0xB87D#16, 0xB87D#16, true,
      0b0000#4⟩) := by decide +kernel
theorem test_frameD_empty_chunk : lastAnswer (step (one (issue (.frameD 0x01 0x05 0x03
      (bytes [0x57, 0xC0, 0x0D]))))) =
    some (rawResponse .ok ⟨0x44#8, 3#8, 5#8, [], 0xC057#16, 0xC057#16, true, 0b0000#4⟩) := by decide +kernel
theorem test_frameZ_one_byte : lastAnswer (step (one (issue (.frameZ 0x01 0x06 0x00
      (bytes [0x00, 0xBC, 0x6C, 0x0D]))))) =
    some (rawResponse .badBody ⟨0x5A#8, 0#8, 6#8, [0#8], 0x6CBC#16, 0x6CBC#16, true, 0b0000#4⟩) := by decide +kernel
theorem test_frameB : lastAnswer (step (one (issue (.frameB 0x01 0x05 0x06 (bytes [0x64, 0x5F, 0x0D]))))) =
    some (rawResponse .ok ⟨0x42#8, 6#8, 5#8, [], 0x5F64#16, 0x5F64#16, true, 0b0000#4⟩) := by decide +kernel
theorem test_frameY_length_mismatch : lastAnswer (step (one (issue (.frameY 0x01 0x06 0x00
      (bytes [0xC8, 0x0F, 0x0D]))))) =
    some (rawResponse .ok ⟨0x59#8, 0#8, 6#8, [], 0x0FC8#16, 0x0FC8#16, true, 0b0001#4⟩) := by decide +kernel
theorem test_frameN : lastAnswer (step (one (issue (.frameN 0x01 0x05 0x00 (bytes [0x4E, 0x34, 0x0D]))))) =
    some (rawResponse .ok ⟨0x4E#8, 0#8, 5#8, [], 0x344E#16, 0x344E#16, true, 0b0000#4⟩) := by decide +kernel

/-- 95_test_vectors.md 2.6: `0x0401` does not advance `SEQ`; `0x0158` with a body is `BAD_TYPE`. -/
theorem test_reserved_words :
    lastAnswer (step { one (.request (.command { word := 0x0401#16 })) with seq := 5#8 }) =
      some (bareResponse .illegalCmd) ∧
    seqOf (step { one (.request (.command { word := 0x0401#16 })) with seq := 5#8 }) = some 5#8 ∧
    lastAnswer (step (one (.request (.command { word := 0x0158#16, body := [0#8] })))) =
      some (bareResponse .badType) := by decide +kernel

/-- A message of unknown type, presented as a message, is answered as `DEC` answers it (R132). -/
theorem test_message_of_unknown_type :
    lastAnswer (step (one (.request (.message (bytes [0x01, 0x05, 0x00, 0x58, 0xB9, 0x46, 0x0D]))))) =
    some (rawResponse .badType ⟨0x58#8, 0#8, 5#8, [], 0x46B9#16, 0x46B9#16, true, 0b0000#4⟩) := by decide +kernel

/-- R210: reset sets `SEQ` to 0 and answers nothing. -/
theorem test_reset_event :
    step { one .reset with seq := 9#8 } = .next State.reset := rfl

/-- The host's word placed next is the one the next step runs. -/
theorem test_withFetchWord : step (State.reset.withFetchWord 16 0x0400) = exec .seqNext State.reset := rfl

/-! ### Well-formedness: an ill-formed term for each check -/

theorem test_wf_refuses_encS : (Instr.encS 0 (List.replicate 65536 0)).wf = false := by simp [Instr.wf, -List.reduceReplicate]
theorem test_wf_refuses_encF : (Instr.encF 0 (List.replicate 65536 0)).wf = false := by simp [Instr.wf, -List.reduceReplicate]
theorem test_wf_refuses_encD : (Instr.encD 0 (List.replicate 65536 0)).wf = false := by simp [Instr.wf, -List.reduceReplicate]
theorem test_wf_refuses_encZ : (Instr.encZ 0 (List.replicate 65536 0)).wf = false := by simp [Instr.wf, -List.reduceReplicate]
theorem test_wf_refuses_encB : (Instr.encB 0 (List.replicate 65536 0)).wf = false := by simp [Instr.wf, -List.reduceReplicate]
theorem test_wf_refuses_encY : (Instr.encY 0 (List.replicate 65536 0)).wf = false := by simp [Instr.wf, -List.reduceReplicate]
theorem test_wf_refuses_encN : (Instr.encN 0 (List.replicate 65536 0)).wf = false := by simp [Instr.wf, -List.reduceReplicate]
theorem test_wf_refuses_dec : (Instr.dec (List.replicate 65536 0)).wf = false := by simp [Instr.wf, -List.reduceReplicate]
theorem test_wf_refuses_crc : (Instr.crc (List.replicate 65536 0)).wf = false := by simp [Instr.wf, -List.reduceReplicate]
theorem test_wf_refuses_frameS : (Instr.frameS 0 0 0 (List.replicate 65532 0)).wf = false := by simp [Instr.wf, -List.reduceReplicate]
theorem test_wf_refuses_frameF : (Instr.frameF 0 0 0 (List.replicate 65532 0)).wf = false := by simp [Instr.wf, -List.reduceReplicate]
theorem test_wf_refuses_frameD : (Instr.frameD 0 0 0 (List.replicate 65532 0)).wf = false := by simp [Instr.wf, -List.reduceReplicate]
theorem test_wf_refuses_frameZ : (Instr.frameZ 0 0 0 (List.replicate 65532 0)).wf = false := by simp [Instr.wf, -List.reduceReplicate]
theorem test_wf_refuses_frameB : (Instr.frameB 0 0 0 (List.replicate 65532 0)).wf = false := by simp [Instr.wf, -List.reduceReplicate]
theorem test_wf_refuses_frameY : (Instr.frameY 0 0 0 (List.replicate 65532 0)).wf = false := by simp [Instr.wf, -List.reduceReplicate]
theorem test_wf_refuses_frameN : (Instr.frameN 0 0 0 (List.replicate 65532 0)).wf = false := by simp [Instr.wf, -List.reduceReplicate]
theorem test_wf_admits_65535 : (Instr.dec (List.replicate 65535 0)).wf = true ∧
    (Instr.frameS 0 0 0 (List.replicate 65531 0)).wf = true := by simp [Instr.wf, -List.reduceReplicate]

/-- R188, U20: a request whose operand cannot be formed is refused by name. -/
theorem test_step_refuses_unformable :
    step (one (.request (.message (List.replicate 65536 0)))) = .refused .operandTooLong := by
  have h : (Request.message (List.replicate 65536 0)).formable = false := by
    simp [Request.formable, -List.reduceReplicate]
  generalize Request.message (List.replicate 65536 0) = r at h
  simp [step, takeEvent, one, serveEvent, serveRequest, h]

/-! ### Witnesses: the hypotheses of each statement are met together -/

theorem witness_EncSAnswersOptionFrame :
    (List.replicate 11 0#8).length = 11 ∧ (List.replicate 10 0#8).length ≠ 11 ∧
    (List.replicate 12 0#8).length ≠ 11 := by decide
theorem witness_EncFAndEncDAnswerVariableFrames :
    (List.replicate 250 0#8).length ≤ 250 ∧ 250 < (List.replicate 251 0#8).length := by
  simp [-List.reduceReplicate]
theorem witness_EmptyBodyEncodersAnswerSevenByteFrames : ([0#8] : Bytes) ≠ [] := by decide
theorem witness_ShapeAdmitsExactlyTheTypesLengths : 0x73#8 ∉ sevenCodes := by decide

theorem witness_EncodedFrameObeysLayoutLaws :
    exec (encInstr .ack 0 []) State.reset = .next { State.reset with
      outbox := [encodedResponse (bytes [0x01, 0x05, 0x00, 0x59, 0x98, 0x56, 0x0D]) 0x5698#16] } := by
  have h : encodeResponse (paramsOf State.reset.config) .ack 0 [] =
      encodedResponse (bytes [0x01, 0x05, 0x00, 0x59, 0x98, 0x56, 0x0D]) 0x5698#16 := by decide +kernel
  change respond (encodeResponse (paramsOf State.reset.config) .ack 0 []) State.reset = _
  rw [h]
  rfl

theorem witness_EncodersReduceSequenceNumber :
    shapeAdmits (typeCode .ack) (List.length ([] : Bytes)) ∧ (63#8).toNat < 64 ∧ 64 ≤ (64#8).toNat := by
  refine ⟨?_, ?_, ?_⟩ <;> simp [shapeAdmits, typeCode]
theorem witness_AnswersDependOnlyOnOperandsAndParameters :
    State.reset.config = (one .reset).config ∧ readSeq State.reset = readSeq (one .reset) := by decide
theorem witness_WorkedEncodeExamples : State.reset.config = defaultConfig := rfl

theorem witness_DecAnswersEveryMessage_sizes :
    (List.replicate 6 0#8).length < 7 ∧ 257 < (List.replicate 258 0#8).length ∧
    7 ≤ (List.replicate 7 0#8).length ∧ (List.replicate 257 0#8).length ≤ 257 ∧
    (List.replicate 250 0#8).length ≤ 250 := by simp [-List.reduceReplicate]
theorem witness_DecAnswersEveryMessage_tests :
    crcOf State.reset [0x01#8, 0x05#8, 0x00#8, 0x59#8] ≠ received 0x56#8 0x98#8 ∧
    crcOf State.reset [0x01#8, 0x05#8, 0x00#8, 0x58#8] = received 0xB9#8 0x46#8 ∧ 0x58#8 ∉ sevenCodes ∧
    crcOf State.reset [0x01#8, 0x06#8, 0x00#8, 0x59#8, 0xAA#8] = received 0x4F#8 0x2D#8 ∧
    0x59#8 ∈ sevenCodes ∧ crcOf State.reset [0x01#8, 0x05#8, 0x00#8, 0x59#8] = received 0x98#8 0x56#8 := by
  decide +kernel
theorem witness_DecAnswersEveryMessage_shape : ¬ shapeAdmits 0x59#8 1 ∧ shapeAdmits 0x59#8 0 := by
  simp [shapeAdmits]
theorem witness_DecDeliversFieldsByStatus :
    (decodeFrame (paramsOf State.reset.config) (List.replicate 7 0#8)).raw ≠ none := by decide +kernel

theorem witness_AdvisoryFlagsNeverChangeStatus :
    decodeFrame (paramsOf State.reset.config) (bytes [0x01, 0x05, 0x00, 0x59, 0x98, 0x56, 0x0D]) =
      rawResponse .ok ⟨0x59#8, 0#8, 5#8, [], 0x5698#16, 0x5698#16, true, 0b0000#4⟩ ∧
    decodeFrame (paramsOf State.reset.config) (bytes [0x02, 0x05, 0x00, 0x59, 0x44, 0xCD, 0x0A]) =
      rawResponse .ok ⟨0x59#8, 0#8, 5#8, [], 0xCD44#16, 0xCD44#16, true, 0b0110#4⟩ := by decide +kernel
theorem witness_PacketValueExactlyWhenOk :
    (decodeFrame (paramsOf defaultConfig) (bytes [0x01, 0x05, 0x00, 0x59, 0x98, 0x56, 0x0D])).status = .ok ∧
    (decodeFrame (paramsOf defaultConfig) (bytes [0x01, 0x05, 0x00, 0x59, 0x98, 0x56, 0x0D])).raw =
      some ⟨0x59#8, 0#8, 5#8, [], 0x5698#16, 0x5698#16, true, 0b0000#4⟩ := by decide +kernel

theorem witness_FrameSDeliversOptionRecord :
    crcOf State.reset ([0x01#8, 0x10#8, 0x00#8, 0x53#8] ++
      bytes [0xFA, 0x05, 0x00, 0x00, 0x0D, 0x00, 0x00, 0x00, 0x00, 0x00, 0x00]) = received 0xFB#8 0x9F#8 ∧
    crcOf State.reset ([0x01#8, 0x0F#8, 0x00#8, 0x53#8] ++ List.replicate 10 0#8) = received 0x21#8 0xD3#8 := by
  decide +kernel
theorem witness_FrameFAndFrameDAlwaysOk :
    crcOf State.reset ([0x01#8, 0x0A#8, 0x01#8, 0x46#8] ++ bytes [0x61, 0x2E, 0x74, 0x78, 0x74]) =
      received 0x7D#8 0xB8#8 ∧
    crcOf State.reset ([0x01#8, 0x05#8, 0x03#8, 0x44#8] ++ []) = received 0x57#8 0xC0#8 := by
  decide +kernel
theorem witness_EmptyFramesOkOnlyAtSevenBytes :
    crcOf State.reset [0x01#8, 0x05#8, 0x05#8, 0x5A#8] = received 0x0E#8 0x99#8 ∧
    crcOf State.reset [0x01#8, 0x05#8, 0x06#8, 0x42#8] = received 0x64#8 0x5F#8 ∧
    crcOf State.reset [0x01#8, 0x05#8, 0x00#8, 0x59#8] = received 0x98#8 0x56#8 ∧
    crcOf State.reset [0x01#8, 0x05#8, 0x00#8, 0x4E#8] = received 0x4E#8 0x34#8 ∧
    crcOf State.reset [0x01#8, 0x06#8, 0x00#8, 0x5A#8, 0x00#8] = received 0xBC#8 0x6C#8 ∧
    crcOf State.reset [0x01#8, 0x06#8, 0x00#8, 0x59#8, 0xAA#8] = received 0x4F#8 0x2D#8 := by decide +kernel

theorem witness_EncodedFrameDecodesToItsPacket :
    State.reset.config = (one .reset).config ∧ shapeAdmits (typeCode .negotiate) 11 ∧
    shapeAdmits (typeCode .data) 250 ∧ shapeAdmits (typeCode .fileHeader) 0 := by
  refine ⟨rfl, ?_, ?_, ?_⟩ <;> simp [shapeAdmits, typeCode]
theorem witness_SingleBitCorruptionIsDetected :
    shapeAdmits (typeCode .data) 5 ∧ 7 < 8 ∧
    crcOf State.reset (flipBit (bytes [0x01, 0x05, 0x00, 0x59]) 3 0) ≠
      crcOf State.reset (bytes [0x01, 0x05, 0x00, 0x59]) := by
  refine ⟨by simp [shapeAdmits, typeCode], by decide, by decide +kernel⟩
theorem witness_DecCornerCases :
    (List.replicate 6 0#8).length = 6 ∧ (List.replicate 258 0#8).length = 258 ∧
    (State.resetWith { defaultConfig with crc := .ccittFalse }).config = { defaultConfig with crc := .ccittFalse } ∧
    State.reset.config = defaultConfig := ⟨List.length_replicate, List.length_replicate, rfl, rfl⟩
theorem witness_DifferentMarkersAreFlaggedNotRejected :
    State.reset.config.crc = (State.resetWith ⟨0x02#8, 0x0A#8, .ccittDefault⟩).config.crc ∧
    shapeAdmits (typeCode .ack) 0 := ⟨rfl, by simp [shapeAdmits, typeCode]⟩

theorem witness_CrcAnswersChecksumOfOperand :
    (List.replicate 257 0#8).length ≤ 257 ∧ 257 < (List.replicate 258 0#8).length ∧
    encodeResponse (paramsOf State.reset.config) .ack 0 [] =
      { status := .ok, frame := some (bytes [0x01, 0x05, 0x00, 0x59, 0x98, 0x56, 0x0D]), crc := some 0x5698#16 } :=
  ⟨by simp [-List.reduceReplicate], by simp [-List.reduceReplicate], by decide +kernel⟩
theorem witness_SeqNextAdvancesAndAnswersNewValue : readSeq { State.reset with seq := 63#8 } = 63#8 := by decide
theorem witness_SeqReadAnswersSeq : (State.reset.seq).toNat ≤ 63 := by decide

/-- A run of two steps, `SEQ.NEXT` then idle, that the run statements speak of. -/
theorem witness_runs :
    runSteps 2 (one (issue .seqNext)) =
      .next { State.reset with seq := 1#8, outbox := [valueResponse 1#8] } ∧
    Event.reset ∉ (one (issue .seqNext)).inbox.take 2 ∧ (one (issue .seqNext)).inbox.length ≥ 1 :=
  ⟨rfl, by decide, by decide⟩
theorem witness_RunDependsOnlyOnCommandsIssued :
    runSteps 1 { one (issue .seqNext) with inbox := (one (issue .seqNext)).inbox.take 1 ++ [.reset] } =
      .next { State.reset with seq := 1#8, inbox := [.reset], outbox := [valueResponse 1#8] } ∧
    (one (issue .seqNext)).inbox.length ≥ 1 := ⟨rfl, by decide⟩
theorem witness_OnlySeqNextAndResetChangeSeq :
    step (one (issue .seqNext)) = .next { State.reset with seq := 1#8, outbox := [valueResponse 1#8] } ∧
    (1#8 : Byte) ≠ (one (issue .seqNext)).seq := ⟨rfl, by decide⟩
theorem witness_CommandsAnswerOnlyTheirStatuses :
    (one (.request (.command { word := 0x0600#16 }))).inbox = [.request (.command { word := 0x0600#16 })] ∧
    step (one (.request (.command { word := 0x0600#16 }))) =
      .next { State.reset with outbox := [bareResponse .illegalCmd] } ∧
    (0x0600#16).toNat / 256 ≠ 1 ∧ 0x0600#16 ∉ [0x0200#16, 0x0300#16, 0x0400#16, 0x0500#16] :=
  ⟨rfl, rfl, by decide, by decide⟩
theorem witness_CommandsAnswerOnlyTheirStatuses_dec :
    step (one (.request (.command { word := 0x0200#16 }))) =
      .next { State.reset with outbox := [bareResponse .tooShort] } := rfl
theorem witness_CommandsAnswerOnlyTheirStatuses_tags :
    (0x0153#16).toNat / 256 = 1 ∧ BitVec.ofNat 8 ((0x0153#16).toNat % 256) ∈ sevenCodes ∧
    (0x0173#16).toNat / 256 = 1 ∧ BitVec.ofNat 8 ((0x0173#16).toNat % 256) ∉ sevenCodes := by decide
theorem witness_NonOkAnswerChangesNothing :
    step (one (.request (.command { word := 0x0158#16 }))) =
      .next { State.reset with outbox := State.reset.outbox ++ [bareResponse .badType] } ∧
    (bareResponse .badType).status ≠ .ok := ⟨rfl, by decide⟩
theorem witness_ReservedCommandWordsAreAnswered :
    (Request.command { word := 0x0600#16 }).formable = true ∧ 6 ≤ (0x0600#16).toNat / 256 ∧
    (0x00FF#16).toNat / 256 = 0 ∧ 2 ≤ (0x0201#16).toNat / 256 ∧ (0x05FF#16).toNat / 256 ≤ 5 ∧
    (0x0201#16).toNat % 256 ≠ 0 ∧ (0x0100#16).toNat / 256 = 1 ∧
    BitVec.ofNat 8 ((0x0100#16).toNat % 256) ∉ sevenCodes := by decide
theorem witness_DecodeAndEncodeAgree :
    decodeRequest (.command ⟨0x0500#16, 7#8, [1#8], [2#8]⟩) = .instr .seqRead := by decide
theorem witness_StepRunsDecodedInstruction :
    (one (issue .seqRead)).inbox = [.request (encodeInstr .seqRead)] ∧
    (encodeInstr .seqRead).formable = true ∧ decodeRequest (encodeInstr .seqRead) = .instr .seqRead ∧
    State.reset.inbox = [] := ⟨rfl, by decide, by decide, rfl⟩
theorem witness_ResetSetsSeqToZero : (one .reset).inbox = [.reset] := rfl
theorem witness_StepRefusesOnlyUnformableOperands :
    (Request.message (List.replicate 65536 0)).formable = false ∧
    (Request.message (List.replicate 65535 0)).formable = true := by simp [Request.formable, -List.reduceReplicate]
theorem witness_EveryStepKeepsInvariant :
    stateInv { one (issue .seqNext) with seq := 63#8 } = true ∧
    step { one (issue .seqNext) with seq := 63#8 } =
      .next { State.reset with seq := 0#8, outbox := [valueResponse 0#8] } := ⟨by decide, rfl⟩
theorem witness_SessionInstancesAreIndependent :
    sessionStep .sender ⟨one (issue .seqNext), one .reset⟩ =
      .next ⟨{ State.reset with seq := 1#8, outbox := [valueResponse 1#8] }, one .reset⟩ ∧
    sessionStep .receiver ⟨one (issue .seqNext), one .reset⟩ =
      .next ⟨one (issue .seqNext), State.reset⟩ := ⟨rfl, rfl⟩
theorem witness_SenderPacketAdvancesOnce :
    (List.length ([0#8] : Bytes)) ≤ 65535 ∧ (∀ m ∈ ([[0#8]] : List Bytes), m.length ≤ 65535) ∧
    { State.reset with inbox := senderPacket .data 0 [0#8] [[0#8]] }.inbox =
      senderPacket .data 0 [0#8] [[0#8]] ++ [] := by
  refine ⟨by decide, by decide, by simp⟩
theorem witness_ReceiverPacketAdvancesOnce :
    (∀ d ∈ ([([0#8], 0#8), ([2#8], 7#8)] : List (Bytes × Byte)), d.1.length ≤ 65535) ∧
    { State.reset with inbox := receiverPacket [([0#8], 0#8), ([2#8], 7#8)] [1#8] 5 }.inbox =
      receiverPacket [([0#8], 0#8), ([2#8], 7#8)] [1#8] 5 ++ [] := by
  refine ⟨by decide, by simp⟩

end Sys2Proof.Tests
end

section
/-! SUPPORT. What the codec delivers, as facts of every message and every operand: the sizes of a frame and of a
body, that the seven FRAME rows are one decoder, R120's, and the families the instructions fall into. -/

namespace Sys2Proof.Machine

@[simp] theorem length_bodyOf (msg : Bytes) : (bodyOf msg).length = msg.length - 7 := by
  simp only [bodyOf, slice, headerLength, minFrame, trailerLength, List.length_take, List.length_drop]
  omega

@[simp] theorem length_encodeFrame (p : Params) (t : FrameType) (seq : Byte) (body : Bytes) :
    (encodeFrame p t seq body).1.length = body.length + 7 := by
  simp [encodeFrame_eq]

/-- The verdict on the fields is asked for only of a message whose size the tests of R120 let through. -/
theorem sizeAndChecksum_congr {p : Params} {msg : Bytes} {judge judge' : RawFields → Status}
    (h : 7 ≤ msg.length → msg.length ≤ 257 → judge (rawFields p msg) = judge' (rawFields p msg)) :
    sizeAndChecksum p msg judge = sizeAndChecksum p msg judge' := by
  unfold sizeAndChecksum
  split_ifs with hshort hlong hcrc
  · rfl
  · rfl
  · rw [h (Nat.le_of_not_lt hshort) (Nat.le_of_not_lt hlong)]
  · rfl

/-- The length test of a type's FRAME row (the `shape` column of the opcode table, R125 to R131). -/
def rowLengthOk : FrameType → Nat → Bool
  | .negotiate => fun n => n == 18
  | .fileHeader | .data => fun n => decide (7 ≤ n) && decide (n ≤ 257)
  | .endOfFile | .endOfTransmission | .ack | .nak => fun n => n == 7

/-- A row's test of the message length is its type's test of the body length (R67). -/
@[simp] theorem rowLengthOk_add_seven (t : FrameType) (b : Nat) : rowLengthOk t (b + 7) = shapeOk t b := by
  cases t <;> simp [rowLengthOk, shapeOk, optionLength, maxBody]

theorem frameRowResponse_eq_decodeFrame (p : Params) (t : FrameType) (mark lenf rseq : Byte) (rest : Bytes) :
    frameRowResponse p (rowLengthOk t) (frameMessage t mark lenf rseq rest) =
      decodeFrame p (frameMessage t mark lenf rseq rest) := by
  refine sizeAndChecksum_congr fun hmin _ => ?_
  have htype : (rawFields p (frameMessage t mark lenf rseq rest)).type = typeCode t := rfl
  rw [typeAndShape_of_known htype, ← rowLengthOk_add_seven]
  simp only [rawFields, length_bodyOf, Nat.sub_add_cancel hmin]

/-- The seven FRAME rows answer as `DEC` of the message does (R79, R121, R125 to R131). -/
theorem answerOf_frameInstr (t : FrameType) (mark lenf rseq : Byte) (rest : Bytes) (s : State) :
    answerOf (frameInstr t mark lenf rseq rest) s =
      decodeFrame (paramsOf s.config) (frameMessage t mark lenf rseq rest) := by
  rw [← frameRowResponse_eq_decodeFrame]
  cases t <;> rfl

/-- The families of the instructions: an encoder or a FRAME row of some type, or one of the four others. -/
theorem instr_family_cases {motive : Instr → Prop}
    (enc : ∀ t seq body, motive (encInstr t seq body)) (dec : ∀ msg, motive (.dec msg))
    (crc : ∀ msg, motive (.crc msg)) (seqNext : motive .seqNext) (seqRead : motive .seqRead)
    (frame : ∀ t mark lenf rseq rest, motive (frameInstr t mark lenf rseq rest)) (i : Instr) : motive i := by
  cases i with
  | encS seq body => exact enc .negotiate seq body
  | encF seq body => exact enc .fileHeader seq body
  | encD seq body => exact enc .data seq body
  | encZ seq body => exact enc .endOfFile seq body
  | encB seq body => exact enc .endOfTransmission seq body
  | encY seq body => exact enc .ack seq body
  | encN seq body => exact enc .nak seq body
  | dec msg => exact dec msg
  | crc msg => exact crc msg
  | seqNext => exact seqNext
  | seqRead => exact seqRead
  | frameS mark lenf rseq rest => exact frame .negotiate mark lenf rseq rest
  | frameF mark lenf rseq rest => exact frame .fileHeader mark lenf rseq rest
  | frameD mark lenf rseq rest => exact frame .data mark lenf rseq rest
  | frameZ mark lenf rseq rest => exact frame .endOfFile mark lenf rseq rest
  | frameB mark lenf rseq rest => exact frame .endOfTransmission mark lenf rseq rest
  | frameY mark lenf rseq rest => exact frame .ack mark lenf rseq rest
  | frameN mark lenf rseq rest => exact frame .nak mark lenf rseq rest

end Sys2Proof.Machine
end

section
/-! SUPPORT. Every answer is of a form the spec names (R83, R122, R180), one lemma per kind of answer. -/

namespace Sys2Proof.Machine

/-- The fields of a message of an admitted size fit each other (R32, R120, R123). -/
theorem rawWf_rawFields (p : Params) {msg : Bytes} (hmin : 7 ≤ msg.length) (hmax : msg.length ≤ 257) :
    rawWf (rawFields p msg) = true := by
  obtain ⟨m, l, q, t, body, lo, hi, e, rfl, hlen⟩ := exists_header_body_trailer hmin
  obtain ⟨hmismatch, -, -, hrange⟩ :=
    packFlags_getLsbD (l.toNat != body.length + 5) (m != p.startMark) (e != p.endMark) (decide (64 ≤ q.toNat))
  have hbody : body.length ≤ 250 := by omega
  simp only [rawFields_layout, rawWf, hmismatch, hrange, hbody, decide_true, beq_self_eq_true, Bool.and_true]

/-- The last two tests of R120 give each verdict exactly the form R122 has for it. -/
theorem responseWf_typeAndShape {raw : RawFields} (hwf : rawWf raw = true) (hcrc : raw.crcOk = true) :
    responseWf (rawResponse (typeAndShape raw) raw) = true := by
  cases htype : typeOfCode raw.type with
  | none => simp [typeAndShape, rawResponse, responseWf, htype, hwf, hcrc]
  | some t =>
    cases hshape : shapeOk t raw.rbody.length <;>
      simp [typeAndShape, rawResponse, responseWf, rawShapeOk, htype, hshape, hwf, hcrc]

theorem responseWf_decodeFrame (p : Params) (msg : Bytes) : responseWf (decodeFrame p msg) = true := by
  unfold decodeFrame
  rcases sizeAndChecksum_cases p msg typeAndShape with
    ⟨-, h⟩ | ⟨-, h⟩ | ⟨hmin, hmax, hcrc, h⟩ | ⟨hmin, hmax, hcrc, h⟩
  · rw [h]; rfl
  · rw [h]; rfl
  · simp [h, rawResponse, responseWf, rawWf_rawFields p hmin hmax, hcrc]
  · rw [h]
    exact responseWf_typeAndShape (rawWf_rawFields p hmin hmax) hcrc

theorem responseWf_encodeResponse (p : Params) (t : FrameType) (seq : Byte) (body : Bytes) :
    responseWf (encodeResponse p t seq body) = true := by
  unfold encodeResponse
  split_ifs with hshape
  · have hbody := shapeOk_le hshape
    simp [encodedResponse, responseWf, hbody]
  · rfl

theorem responseWf_checksumAnswer (p : Params) (msg : Bytes) : responseWf (checksumAnswer p msg) = true := by
  unfold checksumAnswer
  split_ifs <;> rfl

theorem responseWf_valueResponse {v : Byte} (hv : v.toNat < 64) : responseWf (valueResponse v) = true :=
  decide_eq_true (Nat.le_of_lt_succ hv)

theorem seqAfter_lt (c : Byte) : (seqAfter c).toNat < 64 := by
  rw [seqAfter_toNat]
  exact Nat.mod_lt _ (by decide)

theorem responseWf_answerOf (i : Instr) (s : State) : responseWf (answerOf i s) = true := by
  cases i using instr_family_cases with
  | enc t seq body => rw [answerOf_encInstr]; exact responseWf_encodeResponse ..
  | dec msg => exact responseWf_decodeFrame ..
  | crc msg => exact responseWf_checksumAnswer ..
  | seqNext => exact responseWf_valueResponse (seqAfter_lt _)
  | seqRead => exact responseWf_valueResponse (readSeq_lt s)
  | frame t mark lenf rseq rest => rw [answerOf_frameInstr]; exact responseWf_decodeFrame ..

theorem responseWf_rejectionResponse (p : Params) (r : Request) (why : Rejection) :
    responseWf (rejectionResponse p r why) = true := by
  cases why with
  | illegalCmd => rfl
  | unknownTag => rfl
  | noFrameRow => cases r <;> exact responseWf_decodeFrame ..

end Sys2Proof.Machine
end

section
/-! SUPPORT. The invariant, what a step can be, and what an answer depends on. -/

namespace Sys2Proof.Machine

theorem stateInv_iff (s : State) :
    stateInv s = true ↔ s.seq.toNat ≤ 63 ∧ ∀ r ∈ s.outbox, responseWf r = true := by
  simp [stateInv]

/-- An instruction leaves `SEQ` in 0..63 (R22, R171). -/
theorem seqAfterInstr_le (i : Instr) {s : State} (h : s.seq.toNat ≤ 63) : (seqAfterInstr i s).toNat ≤ 63 := by
  cases i
  case seqNext => exact Nat.le_of_lt_succ (seqAfter_lt _)
  all_goals exact h

/-- Giving one more well-formed answer, with `SEQ` in range, keeps the invariant. -/
theorem stateInv_answered {s : State} (hs : stateInv s = true) (rest : List Event) {v : Byte} {r : Response}
    (hv : v.toNat ≤ 63) (hr : responseWf r = true) :
    stateInv { s with inbox := rest, seq := v, outbox := s.outbox ++ [r] } = true := by
  obtain ⟨-, hout⟩ := (stateInv_iff s).mp hs
  rw [stateInv_iff]
  refine ⟨hv, fun r' hmem => ?_⟩
  rcases List.mem_append.mp hmem with hold | hnew
  · exact hout r' hold
  · rwa [List.mem_singleton.mp hnew]

theorem stateInv_resetInstance {s : State} (hs : stateInv s = true) (rest : List Event) :
    stateInv (resetInstance { s with inbox := rest }) = true := by
  obtain ⟨-, hout⟩ := (stateInv_iff s).mp hs
  exact (stateInv_iff _).mpr ⟨by simp, hout⟩

theorem stateInv_resetWith (c : Config) : stateInv (State.resetWith c) = true := by
  simp [stateInv_iff]

theorem step_keeps_stateInv {s s' : State} (hs : stateInv s = true) (h : step s = .next s') :
    stateInv s' = true := by
  obtain ⟨hseq, -⟩ := (stateInv_iff s).mp hs
  rcases step_next_cases h with ⟨-, rfl⟩ | ⟨rest, -, rfl⟩ | ⟨r, rest, i, -, -, -, rfl⟩ | ⟨r, rest, why, -, -, -, rfl⟩
  · exact hs
  · exact stateInv_resetInstance hs rest
  · exact stateInv_answered hs rest (seqAfterInstr_le i hseq) (responseWf_answerOf i s)
  · exact stateInv_answered hs rest hseq (responseWf_rejectionResponse _ r why)

/-- A request that can be formed is served to its end, whether or not it is an instruction (R82, R188). -/
theorem serveRequest_next_of_formable {r : Request} (hr : r.formable = true) (s : State) :
    ∃ s', serveRequest r s = .next s' := by
  rcases serveRequest_cases r s with ⟨hbad, -⟩ | ⟨-, i, -, h⟩ | ⟨-, why, -, h⟩
  · rw [hr] at hbad
    cases hbad
  · exact ⟨_, h.trans (exec_eq i s)⟩
  · exact ⟨_, h⟩

theorem step_refused_of_unformable {s : State} {r : Request} {rest : List Event}
    (hi : s.inbox = .request r :: rest) (hr : r.formable = false) : step s = .refused .operandTooLong := by
  simp [step_request hi, serveRequest, hr]

/-- A step with no unformable request at the head of the inbox completes (R32, R188). -/
theorem step_next_of_formable {s : State}
    (h : ∀ r rest, s.inbox = .request r :: rest → r.formable = true) : ∃ s', step s = .next s' := by
  match hi : s.inbox with
  | [] => exact ⟨_, step_nil hi⟩
  | .reset :: rest => exact ⟨_, step_reset hi⟩
  | .request r :: rest =>
    rw [step_request hi]
    exact serveRequest_next_of_formable (h r rest hi) _

/-- Two states that share the parameters and, for the `SEQ` commands, `SEQ`, answer alike (R29, R48, R110). -/
theorem answerOf_congr (i : Instr) {s₁ s₂ : State} (hconfig : s₁.config = s₂.config)
    (hseq : i = .seqNext ∨ i = .seqRead → readSeq s₁ = readSeq s₂) : answerOf i s₁ = answerOf i s₂ := by
  cases i
  case seqNext => exact congrArg (fun c => valueResponse (seqAfter c)) (hseq (.inl rfl))
  case seqRead => exact congrArg valueResponse (hseq (.inr rfl))
  all_goals simp only [answerOf, hconfig]

end Sys2Proof.Machine
end

section
/-! PROOF. The statements about the state: the invariant, noninterference, refusal and the frame of a step. -/

namespace Sys2Proof.Proofs

open Sys2Proof Sys2Proof.Machine

/-- Settles O44: a step idles, resets or gives one answer, and each keeps the invariant. -/
theorem everyStepKeepsInvariant : Obligations.EveryStepKeepsInvariant :=
  fun _ _ hs h => step_keeps_stateInv hs h

/-- Settles O7: the answer is a function of the operands, the parameters and, for the two `SEQ` commands, `SEQ`. -/
theorem answersDependOnlyOnOperandsAndParameters : Obligations.AnswersDependOnlyOnOperandsAndParameters := by
  intro i s₁ s₂ hconfig hseq
  refine ⟨answerOf i s₁, _, _, exec_eq i s₁, exec_eq i s₂, rfl, ?_⟩
  rw [answerOf_congr i hconfig hseq]

/-- Settles O40: an unformable request is the one event a step does not complete on. -/
theorem stepRefusesOnlyUnformableOperands : Obligations.StepRefusesOnlyUnformableOperands := by
  refine fun s => ⟨⟨?_, ?_⟩, step_next_of_formable⟩
  · rintro ⟨why, hrefused⟩
    by_contra hnone
    have hformable : ∀ r rest, s.inbox = .request r :: rest → r.formable = true := fun r rest hi =>
      Bool.of_not_eq_false fun hr => hnone ⟨r, rest, hi, hr⟩
    obtain ⟨s', hnext⟩ := step_next_of_formable hformable
    rw [hnext] at hrefused
    cases hrefused
  · rintro ⟨r, rest, hi, hr⟩
    exact ⟨_, step_refused_of_unformable hi hr⟩

/-- Settles O41, by what a completed step can have done: idling and reset answer nothing, a request is answered
once. -/
theorem stepKeepsParametersAndOrder : Obligations.StepKeepsParametersAndOrder := by
  intro s s' h
  rcases step_next_cases h with
    ⟨hi, rfl⟩ | ⟨rest, hi, rfl⟩ | ⟨r, rest, i, hi, -, -, rfl⟩ | ⟨r, rest, why, hi, -, -, rfl⟩
  · exact ⟨rfl, by simp [hi], [], by simp [hi]⟩
  · exact ⟨rfl, by simp [hi], [], by simp [hi]⟩
  · exact ⟨rfl, by simp [hi], [answerOf i s], rfl, by simp [hi]⟩
  · exact ⟨rfl, by simp [hi], [rejectionResponse (paramsOf s.config) r why], rfl, by simp [hi]⟩

/-- Settles O43: after reset `SEQ` is 0 and nothing has been answered. -/
theorem resetStateMeetsInvariant : Obligations.ResetStateMeetsInvariant :=
  ⟨stateInv_resetWith defaultConfig, stateInv_resetWith⟩

end Sys2Proof.Proofs
end

section
/-! SUPPORT. What the host issues later plays no part in what is served now (R50): every function that serves an
event commutes with replacing the inbox, and so does a run over the events it takes. -/

namespace Sys2Proof.Machine

@[simp] theorem answerOf_inbox (i : Instr) (s : State) (l : List Event) :
    answerOf i { s with inbox := l } = answerOf i s :=
  answerOf_congr i rfl fun _ => readSeq_inbox s l

@[simp] theorem seqAfterInstr_inbox (i : Instr) (s : State) (l : List Event) :
    seqAfterInstr i { s with inbox := l } = seqAfterInstr i s := by
  cases i <;> rfl

theorem serveRequest_of_instr {r : Request} {i : Instr} (hr : r.formable = true)
    (hd : decodeRequest r = .instr i) (s : State) : serveRequest r s = exec i s := by
  simp only [serveRequest, hr, if_true, serveFormed, hd]

theorem exec_next_inbox {i : Instr} {s s' : State} (h : exec i s = .next s') (l : List Event) :
    s'.inbox = s.inbox ∧ exec i { s with inbox := l } = .next { s' with inbox := l } := by
  rw [exec_eq] at h
  cases h
  refine ⟨rfl, ?_⟩
  rw [exec_eq, answerOf_inbox, seqAfterInstr_inbox]

theorem serveFormed_next_inbox {r : Request} {s s' : State} (h : serveFormed r s = .next s') (l : List Event) :
    s'.inbox = s.inbox ∧ serveFormed r { s with inbox := l } = .next { s' with inbox := l } := by
  unfold serveFormed at h ⊢
  cases hd : decodeRequest r with
  | instr i =>
    rw [hd] at h
    exact exec_next_inbox h l
  | rejected why =>
    rw [hd] at h
    cases h
    exact ⟨rfl, rfl⟩

theorem serveEvent_next_inbox {e : Event} {s s' : State} (h : serveEvent e s = .next s') (l : List Event) :
    s'.inbox = s.inbox ∧ serveEvent e { s with inbox := l } = .next { s' with inbox := l } := by
  cases e with
  | reset =>
    cases h
    exact ⟨rfl, rfl⟩
  | request r =>
    simp only [serveEvent, serveRequest] at h ⊢
    split_ifs at h ⊢
    exact serveFormed_next_inbox h l

theorem step_cons {e : Event} {es : List Event} {s : State} (hi : s.inbox = e :: es) :
    step s = serveEvent e { s with inbox := es } := by
  cases e with
  | reset => exact step_reset hi
  | request r => exact step_request hi

/-- A step takes the event at the head and leaves the events behind it, whatever they are, untouched and unread. -/
theorem step_cons_next_inbox {e : Event} {es : List Event} {s s' : State} (hi : s.inbox = e :: es)
    (h : step s = .next s') (es' : List Event) :
    s'.inbox = es ∧ step { s with inbox := e :: es' } = .next { s' with inbox := es' } := by
  rw [step_cons hi] at h
  exact serveEvent_next_inbox h es'

/-- A run over the events `es` leaves those behind them unread: with others there it is the same run. -/
theorem runSteps_append_inbox {es later : List Event} {s t : State} (hi : s.inbox = es ++ later)
    (h : runSteps es.length s = .next t) (later' : List Event) :
    t.inbox = later ∧
      runSteps es.length { s with inbox := es ++ later' } = .next { t with inbox := later' } := by
  induction es generalizing s with
  | nil =>
    cases h
    exact ⟨hi, rfl⟩
  | cons e es ih =>
    obtain ⟨s₁, hstep, hrun⟩ := runSteps_succ_next h
    obtain ⟨hi₁, hstep'⟩ := step_cons_next_inbox hi hstep (es ++ later')
    obtain ⟨ht, hrun'⟩ := ih hi₁ hrun
    exact ⟨ht, (runSteps_succ_of_next hstep').trans hrun'⟩

end Sys2Proof.Machine
end

section
/-! PROOF. The statements about the host's commands: what a step runs, and that later commands have no effect. -/

namespace Sys2Proof.Proofs

open Sys2Proof Sys2Proof.Machine

/-- Settles O42: the run over the first `k` events is the same run whatever stands behind them. -/
theorem runDependsOnlyOnCommandsIssued : Obligations.RunDependsOnlyOnCommandsIssued := by
  intro k s t later later' hrun hk
  have hlen : (s.inbox.take k).length = k := List.length_take_of_le hk
  obtain ⟨ht, hrun'⟩ := runSteps_append_inbox (es := s.inbox.take k) rfl (by rwa [hlen]) later'
  rw [hlen] at hrun'
  exact ⟨_, hrun', rfl, rfl, rfl, ht, rfl⟩

/-- Settles O38, by what a step is with a request at the head of the inbox and with an empty one. -/
theorem stepRunsDecodedInstruction : Obligations.StepRunsDecodedInstruction :=
  fun _ => ⟨fun _ _ _ hi hr hd => (step_request hi).trans (serveRequest_of_instr hr hd _), step_nil⟩

end Sys2Proof.Proofs
end

section
/-! SUPPORT. The encoding of requests: a command word is its two fields, the type codes are the seven codes, and what
the decoder and the encoder make of each family of instructions (R66, R79 to R83). -/

namespace Sys2Proof

open Statements

theorem toNat_append_byte {n : Nat} (v : BitVec n) (b : Byte) : (v ++ b).toNat = v.toNat * 2 ^ 8 + b.toNat := by
  rw [BitVec.toNat_append, ← Nat.shiftLeft_add_eq_or_of_lt b.isLt, Nat.shiftLeft_eq]

theorem commandWord_toNat (op arg : Byte) : (commandWord op arg).toNat = op.toNat * 2 ^ 8 + arg.toNat :=
  toNat_append_byte op arg

@[simp] theorem opField_commandWord (op arg : Byte) : opField (commandWord op arg) = op := by
  have := arg.isLt
  rw [opField_eq_iff, commandWord_toNat]
  omega

@[simp] theorem argField_commandWord (op arg : Byte) : argField (commandWord op arg) = arg := by
  have := arg.isLt
  rw [argField_eq_iff, commandWord_toNat]
  omega

theorem argField_eq_ofNat (w : Word) : argField w = BitVec.ofNat 8 (w.toNat % 256) := by
  rw [← argField_toNat, BitVec.ofNat_toNat, BitVec.setWidth_eq]

/-- The listed codes are the codes of the seven types (R66). -/
theorem mem_sevenCodes {b : Byte} : b ∈ sevenCodes ↔ ∃ t, b = typeCode t := by
  constructor
  · intro h
    simp only [sevenCodes, List.mem_cons, List.not_mem_nil, or_false] at h
    rcases h with rfl | rfl | rfl | rfl | rfl | rfl | rfl
    exacts [⟨.negotiate, rfl⟩, ⟨.fileHeader, rfl⟩, ⟨.data, rfl⟩, ⟨.endOfFile, rfl⟩,
      ⟨.endOfTransmission, rfl⟩, ⟨.ack, rfl⟩, ⟨.nak, rfl⟩]
  · rintro ⟨t, rfl⟩
    cases t <;> decide

/-- A type byte outside the seven codes names no type (R77). -/
theorem typeOfCode_eq_none {b : Byte} : typeOfCode b = none ↔ b ∉ sevenCodes := by
  rw [mem_sevenCodes, Option.eq_none_iff_forall_ne_some, not_exists]
  exact forall_congr' fun _ => not_congr typeOfCode_eq_some

theorem shapeOk_iff_shapeAdmits (t : FrameType) (b : Nat) :
    Machine.shapeOk t b = true ↔ shapeAdmits (typeCode t) b := by
  cases t <;> simp [Machine.shapeOk, shapeAdmits, typeCode, optionLength, maxBody]

/-- A code that admits some body length is one of the seven (R67). -/
theorem mem_sevenCodes_of_shapeAdmits {b : Byte} {n : Nat} (h : shapeAdmits b n) : b ∈ sevenCodes := by
  rcases h with ⟨rfl, -⟩ | ⟨rfl | rfl, -⟩ | ⟨rfl | rfl | rfl | rfl, -⟩ <;> decide

theorem typeCode_injective : Function.Injective typeCode := fun t t' h =>
  Option.some.inj (by rw [← typeOfCode_typeCode t, h, typeOfCode_typeCode])

/-- `ENC.<t>` is encoded with operation code `0x01` and the code of `t` (R81). -/
theorem encodeInstr_encInstr (t : FrameType) (seq : Byte) (body : Bytes) :
    encodeInstr (encInstr t seq body) = .command ⟨commandWord 0x01#8 (typeCode t), seq, body, []⟩ := by
  cases t <;> rfl

theorem encodeInstr_frameInstr (t : FrameType) (mark lenf rseq : Byte) (rest : Bytes) :
    encodeInstr (frameInstr t mark lenf rseq rest) = .message (frameMessage t mark lenf rseq rest) := by
  cases t <;> rfl

/-- Rows of one message are the same row only for the same type, since the encoder writes the type's code. -/
theorem frameInstr_inj {t t' : FrameType} {mark lenf rseq : Byte} {rest : Bytes}
    (h : frameInstr t mark lenf rseq rest = frameInstr t' mark lenf rseq rest) : t = t' := by
  have hcode := congrArg encodeInstr h
  simp only [encodeInstr_frameInstr, frameMessage, Request.message.injEq, List.cons.injEq, true_and,
    and_true] at hcode
  exact typeCode_injective hcode

/-- The command word of `ENC.<t>` decodes to it, whatever operand stands where `msg` is not named (R81, R83). -/
theorem decodeCommand_encWord (t : FrameType) (seq : Byte) (body msg : Bytes) :
    decodeCommand ⟨commandWord 0x01#8 (typeCode t), seq, body, msg⟩ = .instr (encInstr t seq body) := by
  simp [decodeCommand]

theorem decodeCommand_decWord (seq : Byte) (body msg : Bytes) :
    decodeCommand ⟨commandWord 0x02#8 0x00#8, seq, body, msg⟩ = .instr (.dec msg) := by
  simp [decodeCommand, decodePlain]

theorem decodeCommand_crcWord (seq : Byte) (body msg : Bytes) :
    decodeCommand ⟨commandWord 0x03#8 0x00#8, seq, body, msg⟩ = .instr (.crc msg) := by
  simp [decodeCommand, decodePlain]

theorem decodeCommand_seqNextWord (seq : Byte) (body msg : Bytes) :
    decodeCommand ⟨commandWord 0x04#8 0x00#8, seq, body, msg⟩ = .instr .seqNext := by
  simp [decodeCommand, decodePlain]

theorem decodeCommand_seqReadWord (seq : Byte) (body msg : Bytes) :
    decodeCommand ⟨commandWord 0x05#8 0x00#8, seq, body, msg⟩ = .instr .seqRead := by
  simp [decodeCommand, decodePlain]

theorem decodeMessage_frameMessage (t : FrameType) (mark lenf rseq : Byte) (rest : Bytes) :
    decodeMessage (frameMessage t mark lenf rseq rest) = .instr (frameInstr t mark lenf rseq rest) := by
  simp [decodeMessage, frameMessage]

/-- Everything the decoder can read from a message: the FRAME row of its type byte, or no row (R77, R79). -/
theorem decodeMessage_cases (msg : Bytes) :
    (∃ t mark lenf rseq rest, msg = frameMessage t mark lenf rseq rest ∧
      decodeMessage msg = .instr (frameInstr t mark lenf rseq rest)) ∨
    decodeMessage msg = .rejected .noFrameRow := by
  match msg with
  | [] | [_] | [_, _] | [_, _, _] => exact .inr rfl
  | mark :: lenf :: rseq :: code :: rest =>
    cases hcode : typeOfCode code with
    | none => exact .inr (by rw [decodeMessage, hcode])
    | some t =>
      obtain rfl := typeOfCode_eq_some.mp hcode
      exact .inl ⟨t, mark, lenf, rseq, rest, rfl, decodeMessage_frameMessage ..⟩

/-- A message selects the FRAME row of `t` exactly when byte 3 is the code of `t` (R79). -/
theorem decodeMessage_eq_frameInstr {mark lenf rseq code : Byte} {rest : Bytes} {t : FrameType} :
    decodeMessage (mark :: lenf :: rseq :: code :: rest) = .instr (frameInstr t mark lenf rseq rest) ↔
      code = typeCode t := by
  constructor
  · intro h
    cases hcode : typeOfCode code with
    | none => simp [decodeMessage, hcode] at h
    | some t' =>
      simp only [decodeMessage, hcode, Decoded.instr.injEq] at h
      rw [← frameInstr_inj h]
      exact typeOfCode_eq_some.mp hcode
  · rintro rfl
    exact decodeMessage_frameMessage ..

theorem decodeRequest_encodeInstr (i : Instr) : decodeRequest (encodeInstr i) = .instr i := by
  cases i using Machine.instr_family_cases with
  | enc t seq body => rw [encodeInstr_encInstr]; exact decodeCommand_encWord ..
  | dec msg => exact decodeCommand_decWord 0 [] msg
  | crc msg => exact decodeCommand_crcWord 0 [] msg
  | seqNext => exact decodeCommand_seqNextWord 0 [] []
  | seqRead => exact decodeCommand_seqReadWord 0 [] []
  | frame t mark lenf rseq rest => rw [encodeInstr_frameInstr]; exact decodeMessage_frameMessage ..

/-- The word of a command that decodes to an instruction is the one the encoder gives it, and so are the operands the
word names (R81, R83). -/
theorem encodeInstr_of_decodeCommand {c : Command} {i : Instr} (h : decodeCommand c = .instr i) :
    encodeInstr i = .command (canonicalCommand c) := by
  obtain ⟨w, seq, body, msg⟩ := c
  rcases decodeCommand_cases ⟨w, seq, body, msg⟩ with
    ⟨t, hop, harg, hd⟩ | ⟨-, -, hd⟩ | ⟨rfl, hd⟩ | ⟨rfl, hd⟩ | ⟨rfl, hd⟩ | ⟨rfl, hd⟩ | ⟨-, -, hd⟩
    <;> rw [hd] at h <;> cases h
  · rw [encodeInstr_encInstr, canonicalCommand, if_pos hop, word_eq_of_fields hop harg]
  all_goals simp [encodeInstr, canonicalCommand, opField]

theorem encodeInstr_of_decodeRequest {r : Request} {i : Instr} (h : decodeRequest r = .instr i) :
    encodeInstr i = canonicalRequest r := by
  cases r with
  | command c => exact encodeInstr_of_decodeCommand h
  | message msg =>
    simp only [decodeRequest] at h
    rcases decodeMessage_cases msg with ⟨t, mark, lenf, rseq, rest, rfl, hd⟩ | hd <;> rw [hd] at h <;> cases h
    exact encodeInstr_frameInstr ..

/-- A word that is no `ENC` word and none of the other four is reserved (R82 a, b). -/
theorem decodeCommand_reserved {c : Command} (hop : opField c.word ≠ 0x01#8)
    (hword : c.word ∉ [0x0200#16, 0x0300#16, 0x0400#16, 0x0500#16]) :
    decodeCommand c = .rejected .illegalCmd := by
  rcases decodeCommand_cases c with
    ⟨t, h, -, -⟩ | ⟨h, -, -⟩ | ⟨h, -⟩ | ⟨h, -⟩ | ⟨h, -⟩ | ⟨h, -⟩ | ⟨-, -, hd⟩
  · exact absurd h hop
  · exact absurd h hop
  · simp [h] at hword
  · simp [h] at hword
  · simp [h] at hword
  · simp [h] at hword
  · exact hd

theorem decodeCommand_unknownTag {c : Command} (hop : opField c.word = 0x01#8)
    (harg : argField c.word ∉ sevenCodes) : decodeCommand c = .rejected .unknownTag := by
  rw [decodeCommand, if_pos hop, typeOfCode_eq_none.mpr harg]

/-- Every word of the four other commands has an operation code of 2 to 5 and `arg = 0x00` (R80). -/
theorem fields_of_mem_plainWords {w : Word} (h : w ∈ [0x0200#16, 0x0300#16, 0x0400#16, 0x0500#16]) :
    2 ≤ w.toNat / 256 ∧ w.toNat / 256 ≤ 5 ∧ w.toNat % 256 = 0 := by
  simp only [List.mem_cons, List.not_mem_nil, or_false] at h
  rcases h with rfl | rfl | rfl | rfl <;> decide

/-- The header word holds the four bytes, byte 0 highest (R79). -/
theorem headerWord_toNat (mark lenf rseq code : Byte) :
    (headerWord mark lenf rseq code).toNat =
      mark.toNat * 2 ^ 24 + lenf.toNat * 2 ^ 16 + rseq.toNat * 2 ^ 8 + code.toNat := by
  simp only [headerWord, toNat_append_byte]
  omega

/-- Bits 7:0 of the header word are the type byte (R79). -/
theorem headerWord_lowByte_eq_iff (mark lenf rseq code b : Byte) :
    headerWord mark lenf rseq code &&& 0x000000FF#32 = BitVec.ofNat 32 b.toNat ↔ code = b := by
  have hcode := code.isLt
  have hb := b.isLt
  have hlow : (headerWord mark lenf rseq code &&& 0x000000FF#32).toNat = code.toNat := by
    rw [BitVec.toNat_and, headerWord_toNat]
    refine (Nat.and_two_pow_sub_one_eq_mod _ 8).trans ?_
    omega
  rw [← BitVec.toNat_inj, hlow, BitVec.toNat_ofNat, Nat.mod_eq_of_lt (by omega), BitVec.toNat_inj]

/-- A table row's header word stands for the message of its four bytes (log entry 7). -/
theorem tableRequest_headerWord (mark lenf rseq code : Byte) :
    tableRequest 32 (headerWord mark lenf rseq code).toNat =
      .message [mark, lenf, rseq, code, 0#8, 0#8, 0#8] := by
  have hbyte : ∀ (k : Nat) (b : Byte),
      (headerWord mark lenf rseq code).toNat / 2 ^ (8 * k) % 256 = b.toNat →
        byteOfNat (headerWord mark lenf rseq code).toNat k = b := by
    intro k b h
    apply BitVec.eq_of_toNat_eq
    rw [byteOfNat, BitVec.toNat_ofNat, Nat.shiftRight_eq_div_pow]
    exact h
  have := mark.isLt
  have := lenf.isLt
  have := rseq.isLt
  have := code.isLt
  rw [tableRequest, if_neg (by decide), hbyte 3 mark, hbyte 2 lenf, hbyte 1 rseq, hbyte 0 code] <;>
    rw [headerWord_toNat] <;> omega

end Sys2Proof
end

section
/-! SUPPORT. What serving does with a message and with a rejected command (R82, R125 to R132). -/

namespace Sys2Proof.Machine

@[simp] theorem seqAfterInstr_frameInstr (t : FrameType) (mark lenf rseq : Byte) (rest : Bytes) (s : State) :
    seqAfterInstr (frameInstr t mark lenf rseq rest) s = s.seq := by
  cases t <;> rfl

/-- A FRAME row does to its message what `DEC` does to it (R125 to R131). -/
theorem exec_frameInstr (t : FrameType) (mark lenf rseq : Byte) (rest : Bytes) (s : State) :
    exec (frameInstr t mark lenf rseq rest) s = exec (.dec (frameMessage t mark lenf rseq rest)) s := by
  rw [exec_eq, exec_eq, answerOf_frameInstr, seqAfterInstr_frameInstr]
  rfl

/-- A presented message is served as `DEC` serves it, with a FRAME row or without (R77, R79, R132). -/
theorem serveFormed_message (msg : Bytes) (s : State) : serveFormed (.message msg) s = exec (.dec msg) s := by
  rcases decodeMessage_cases msg with ⟨t, mark, lenf, rseq, rest, rfl, hd⟩ | hd
  · simp only [serveFormed, decodeRequest, hd, exec_frameInstr]
  · simp only [serveFormed, decodeRequest, hd, rejectionResponse_noFrameRow]
    rfl

theorem serveFormed_encodeInstr (i : Instr) (s : State) : serveFormed (encodeInstr i) s = exec i s := by
  simp only [serveFormed, decodeRequest_encodeInstr]

theorem serveRequest_message (msg : Bytes) (s : State) :
    serveRequest (.message msg) s = serveRequest (encodeInstr (.dec msg)) s := by
  have hformable : (Request.message msg).formable = (encodeInstr (.dec msg)).formable :=
    (Laws.Formable.dec msg).symm
  simp only [serveRequest, hformable, serveFormed_message, serveFormed_encodeInstr]

theorem step_request_cons (r : Request) (later : List Event) (s : State) :
    step { s with inbox := .request r :: later } = serveRequest r { s with inbox := later } :=
  step_request rfl

/-- A step on a formable request that is no instruction gives its answer and does nothing else (R82). -/
theorem step_of_rejected {s : State} {r : Request} {rest : List Event} {why : Rejection}
    (hi : s.inbox = .request r :: rest) (hr : r.formable = true) (hd : decodeRequest r = .rejected why) :
    step s = .next { s with
      inbox := rest
      outbox := s.outbox ++ [rejectionResponse (paramsOf s.config) r why] } := by
  rw [step_request hi]
  simp only [serveRequest, hr, if_true, serveFormed, hd]
  rfl

end Sys2Proof.Machine
end

section
/-! PROOF. The statements about the encoding: decoding and encoding agree, FRAME rows are `DEC`, and reserved words
are answered. -/

namespace Sys2Proof.Proofs

open Sys2Proof Sys2Proof.Machine Sys2Proof.Statements

/-- Settles O37: the encoder is a right inverse of the decoder, and what it gives back is the canonical request. -/
theorem decodeAndEncodeAgree : Obligations.DecodeAndEncodeAgree := by
  refine ⟨decodeRequest_encodeInstr, fun r i h => ?_⟩
  have hcanonical := encodeInstr_of_decodeRequest h
  exact ⟨hcanonical, hcanonical ▸ decodeRequest_encodeInstr i⟩

/-- Settles O16: a FRAME row is `DEC` of its message, and serving a message is serving the command `DEC` of it. -/
theorem frameRowsAnswerAsDec : Obligations.FrameRowsAnswerAsDec :=
  ⟨exec_frameInstr, fun msg later s => by
    rw [step_request_cons, step_request_cons]
    exact serveRequest_message msg _⟩

/-- Settles O35: each reserved word is rejected by the decoder, and a rejected command is answered and no more. -/
theorem reservedCommandWordsAreAnswered : Obligations.ReservedCommandWordsAreAnswered := by
  intro s c rest hi hr
  have reserved : c.word.toNat / 256 ≠ 1 → c.word ∉ [0x0200#16, 0x0300#16, 0x0400#16, 0x0500#16] →
      step s = .next { s with inbox := rest, outbox := s.outbox ++ [{ status := .illegalCmd }] } :=
    fun hop hword => step_of_rejected hi hr (decodeCommand_reserved (mt (opField_eq_iff _ _).mp hop) hword)
  refine ⟨fun hop => ?_, fun hmin hmax harg => ?_, fun hop harg => ?_⟩
  · refine reserved (by omega) fun hword => ?_
    obtain ⟨hmin, hmax, -⟩ := fields_of_mem_plainWords hword
    omega
  · refine reserved (by omega) fun hword => ?_
    obtain ⟨-, -, hzero⟩ := fields_of_mem_plainWords hword
    exact harg hzero
  · rw [← argField_eq_ofNat] at harg
    exact step_of_rejected hi hr (decodeCommand_unknownTag ((opField_eq_iff _ _).mpr hop) harg)

/-- Settles O36: the low byte of the header word is byte 3 of the message, which alone selects the row. -/
theorem typeByteAloneSelectsFrameRow : Obligations.TypeByteAloneSelectsFrameRow := by
  intro m l q c rest t
  refine ⟨headerWord_toNat m l q c, ?_, ?_⟩
  · rw [headerWord_lowByte_eq_iff]
    exact decodeMessage_eq_frameInstr
  · rw [decodeTableWord, tableRequest_headerWord]
    exact congrArg Decoded.instr? (decodeMessage_frameMessage t m l q [0#8, 0#8, 0#8])

/-- Settles O1: the model's seven codes and their shapes are those the statement lists. -/
theorem shapeAdmitsExactlyTheTypesLengths : Obligations.ShapeAdmitsExactlyTheTypesLengths :=
  ⟨shapeOk_iff_shapeAdmits,
    fun _ => (exists_congr fun _ => typeOfCode_eq_some).trans mem_sevenCodes.symm,
    fun _ _ => mt mem_sevenCodes_of_shapeAdmits,
    typeOfCode_typeCode⟩

/-- Settles O34: the seven `ENC` words are `0x01` with a type code, the other four are `0x02` to `0x05` with a zero. -/
theorem commandWordsDecode : Obligations.CommandWordsDecode :=
  fun q b m =>
    ⟨decodeCommand_encWord .negotiate q b m, decodeCommand_encWord .fileHeader q b m,
      decodeCommand_encWord .data q b m, decodeCommand_encWord .endOfFile q b m,
      decodeCommand_encWord .endOfTransmission q b m, decodeCommand_encWord .ack q b m,
      decodeCommand_encWord .nak q b m, decodeCommand_decWord q b m,
      decodeCommand_crcWord q b m, decodeCommand_seqNextWord q b m, decodeCommand_seqReadWord q b m⟩

end Sys2Proof.Proofs
end

section
/-! SUPPORT. The encoders' answers: one response per type, the frame or `BAD_BODY` by the shape of the body, the
layout of the frame, and the reduction of `seq` (R100, R101, R109, R111). -/

namespace Sys2Proof.Machine

open Statements

@[simp] theorem paramsOf_startMark (c : Config) : (paramsOf c).startMark = c.startMark := rfl
@[simp] theorem paramsOf_endMark (c : Config) : (paramsOf c).endMark = c.endMark := rfl
@[simp] theorem paramsOf_crc16 (c : Config) : (paramsOf c).crc16 = crcFunction c.crc := rfl

/-- The checksum bytes of the model are those of the trailer the statements write in arithmetic (R12, R68). -/
theorem trailer_eq (c : Word) (fin : Byte) : trailer c fin = [lo8 c, hi8 c, fin] := by
  rw [trailer, ← toNat_lo8, ← toNat_hi8]
  simp only [BitVec.ofNat_toNat, BitVec.setWidth_eq]

/-- An encoder gives its response and does nothing else (R101, R112). -/
theorem answers_encInstr (t : FrameType) (seq : Byte) (body : Bytes) (s : State) :
    Answers (encInstr t seq body) s (encodeResponse (paramsOf s.config) t seq body) :=
  exec_encInstr t seq body s

/-- The header of the frame of `body`: marker, length, sequence, type (R62, R100). -/
def frameHeader (s : State) (t : FrameType) (seq : Byte) (body : Bytes) : Bytes :=
  [s.config.startMark, BitVec.ofNat 8 (body.length + 5), reduceSeq seq, typeCode t]

theorem answers_framed_of_shapeOk {t : FrameType} {body : Bytes} (h : shapeOk t body.length = true) (seq : Byte)
    (s : State) : Answers (encInstr t seq body) s (framed s (frameHeader s t seq body) body) := by
  have hresponse : encodeResponse (paramsOf s.config) t seq body = framed s (frameHeader s t seq body) body := by
    simp [encodeResponse, h, encodeFrame_eq, encodedResponse, framed, frameHeader, trailer_eq]
  rw [← hresponse]
  exact answers_encInstr t seq body s

theorem answers_badBody_of_shapeOk_eq_false {t : FrameType} {body : Bytes} (h : shapeOk t body.length = false)
    (seq : Byte) (s : State) : Answers (encInstr t seq body) s (bareResponse .badBody) := by
  have hresponse : encodeResponse (paramsOf s.config) t seq body = bareResponse .badBody := by
    simp [encodeResponse, h]
  rw [← hresponse]
  exact answers_encInstr t seq body s

/-- An instruction has one answer: the response it gives in a run is the one it is known to answer. -/
theorem response_eq_of_answers {i : Instr} {s s' : State} {r r' : Response} (hanswers : Answers i s r)
    (hexec : exec i s = .next s') (hout : s'.outbox = s.outbox ++ [r']) : r' = r := by
  rw [hanswers] at hexec
  cases hexec
  simpa using hout.symm

/-- An encoder that answers `OK` was given a body of its type's shape, and the answer is the frame (R101). -/
theorem framed_of_encInstr_ok {t : FrameType} {seq : Byte} {body : Bytes} {s s' : State} {r : Response}
    (hexec : exec (encInstr t seq body) s = .next s') (hout : s'.outbox = s.outbox ++ [r])
    (hok : r.status = .ok) :
    shapeOk t body.length = true ∧ r = framed s (frameHeader s t seq body) body := by
  cases hshape : shapeOk t body.length with
  | true => exact ⟨rfl, response_eq_of_answers (answers_framed_of_shapeOk hshape seq s) hexec hout⟩
  | false =>
    rw [response_eq_of_answers (answers_badBody_of_shapeOk_eq_false hshape seq s) hexec hout] at hok
    cases hok

/-- The frame of an encoder's `OK`, byte by byte (R62). -/
theorem framed_frameHeader (s : State) (t : FrameType) (seq : Byte) (body : Bytes) :
    framed s (frameHeader s t seq body) body =
      let c := crcOf s (frameHeader s t seq body ++ body)
      encodedResponse (s.config.startMark :: BitVec.ofNat 8 (body.length + 5) :: reduceSeq seq :: typeCode t ::
        (body ++ [lo8 c, hi8 c, s.config.endMark])) c := by
  simp only [framed, trailer_eq, encodedResponse, List.append_assoc]
  rfl

/-- The bytes of the trailer, counted from the end of the frame (R68, R75). -/
theorem getElem?_trailer {m l q t lo hi e : Byte} {body frame : Bytes}
    (h : m :: l :: q :: t :: (body ++ [lo, hi, e]) = frame) :
    frame[frame.length - 3]? = some lo ∧ frame[frame.length - 2]? = some hi ∧
      frame[frame.length - 1]? = some e := by
  subst h
  simp

/-- The `length` byte of a body that some type admits is not cut off at 8 bits (R64, R67). -/
theorem lengthByte_toNat {n : Nat} (h : n ≤ 250) : (BitVec.ofNat 8 (n + 5)).toNat = n + 5 := by
  rw [BitVec.toNat_ofNat]
  omega

theorem reduceSeq_of_lt {seq : Byte} (h : seq.toNat < 64) : reduceSeq seq = seq := by
  apply BitVec.eq_of_toNat_eq
  rw [reduceSeq_toNat, Nat.mod_eq_of_lt h]

@[simp] theorem reduceSeq_reduceSeq (seq : Byte) : reduceSeq (reduceSeq seq) = reduceSeq seq :=
  reduceSeq_of_lt (by rw [reduceSeq_toNat]; exact Nat.mod_lt _ (by decide))

theorem encodeResponse_reduceSeq (p : Params) (t : FrameType) (seq : Byte) (body : Bytes) :
    encodeResponse p t (reduceSeq seq) body = encodeResponse p t seq body := by
  simp only [encodeResponse, encodeFrame, reduceSeq_reduceSeq]

end Sys2Proof.Machine
end

section
/-! SUPPORT. Evaluating the default checksum on literal bytes by rewriting, one shift at a time (R153), and what an
encoder answers with the default parameters. -/

namespace Sys2Proof.Machine

open Statements

/-- The top bit of the register is read off its value, so that a shift of a literal is a literal. -/
theorem shiftMsb_eq_ite_toNat (c : Word) :
    shiftMsb c = if 0x8000 ≤ c.toNat then (c <<< 1) ^^^ 0x1021#16 else c <<< 1 := by
  simp [shiftMsb, BitVec.msb_eq_decide]

theorem byteMsb_eq_eight_shifts (c : Word) (b : Byte) :
    byteMsb c b = shiftMsb (shiftMsb (shiftMsb (shiftMsb (shiftMsb (shiftMsb (shiftMsb (shiftMsb
      (c ^^^ (b.setWidth 16 <<< 8))))))))) := rfl

/-- With the default parameters the markers are `0x01` and `0x0D` and the checksum is `CRC16_DEFAULT` (R8). -/
theorem answers_of_defaultConfig {s : State} (hs : s.config = defaultConfig) {t : FrameType} {seq : Byte}
    {body frame : Bytes} {c : Word} (hshape : shapeOk t body.length = true)
    (hcrc : crc16Default ([0x01#8, BitVec.ofNat 8 (body.length + 5), reduceSeq seq, typeCode t] ++ body) = c)
    (hframe : [0x01#8, BitVec.ofNat 8 (body.length + 5), reduceSeq seq, typeCode t] ++ body ++ trailer c 0x0D#8 =
      frame) :
    Answers (encInstr t seq body) s { status := .ok, crc := some c, frame := some frame } := by
  have hanswers := answers_framed_of_shapeOk hshape seq s
  simp only [framed, frameHeader, crcOf, hs] at hanswers
  subst hcrc hframe
  exact hanswers

end Sys2Proof.Machine
end

section
/-! PROOF. The statements about the encode family. -/

namespace Sys2Proof.Proofs

open Sys2Proof Sys2Proof.Machine Sys2Proof.Statements

/-- Settles O2: the shape of `S` is 11 bytes, whose `length` byte is 11 + 5. -/
theorem encSAnswersOptionFrame : Obligations.EncSAnswersOptionFrame := by
  intro seq body s
  refine ⟨fun h => ?_, fun h => answers_badBody_of_shapeOk_eq_false (t := .negotiate) (by simpa [shapeOk] using h) seq s⟩
  have hanswers := answers_framed_of_shapeOk (t := .negotiate) (body := body) (by simpa [shapeOk] using h) seq s
  rwa [frameHeader, h] at hanswers

/-- Settles O3: the shape of `F` and of `D` is at most 250 bytes. -/
theorem encFAndEncDAnswerVariableFrames : Obligations.EncFAndEncDAnswerVariableFrames := by
  refine fun seq body s => ⟨fun h => ⟨?_, ?_⟩, fun h => ⟨?_, ?_⟩⟩
  · exact answers_framed_of_shapeOk (t := .fileHeader) (decide_eq_true h) seq s
  · exact answers_framed_of_shapeOk (t := .data) (decide_eq_true h) seq s
  · exact answers_badBody_of_shapeOk_eq_false (t := .fileHeader) (decide_eq_false (Nat.not_le_of_lt h)) seq s
  · exact answers_badBody_of_shapeOk_eq_false (t := .data) (decide_eq_false (Nat.not_le_of_lt h)) seq s

/-- Settles O4: the shape of `Z`, `B`, `Y` and `N` is the empty body. -/
theorem emptyBodyEncodersAnswerSevenByteFrames : Obligations.EmptyBodyEncodersAnswerSevenByteFrames := by
  refine fun seq s => ⟨⟨?_, ?_, ?_, ?_⟩, fun body hbody => ?_⟩
  · exact answers_framed_of_shapeOk (t := .endOfFile) rfl seq s
  · exact answers_framed_of_shapeOk (t := .endOfTransmission) rfl seq s
  · exact answers_framed_of_shapeOk (t := .ack) rfl seq s
  · exact answers_framed_of_shapeOk (t := .nak) rfl seq s
  · have hlength : (body.length == 0) = false := by simpa using hbody
    exact ⟨answers_badBody_of_shapeOk_eq_false (t := .endOfFile) hlength seq s,
      answers_badBody_of_shapeOk_eq_false (t := .endOfTransmission) hlength seq s,
      answers_badBody_of_shapeOk_eq_false (t := .ack) hlength seq s,
      answers_badBody_of_shapeOk_eq_false (t := .nak) hlength seq s⟩

/-- Settles O5: the answer is a frame written out as header, body and trailer, and each law reads one part of it. -/
theorem encodedFrameObeysLayoutLaws : Obligations.EncodedFrameObeysLayoutLaws := by
  intro t seq body s s' r frame c hexec hout hok hframe hcrc
  obtain ⟨hshape, rfl⟩ := framed_of_encInstr_ok hexec hout hok
  rw [framed_frameHeader] at hframe hcrc
  have hlayout := Option.some.inj hframe
  obtain rfl := Option.some.inj hcrc
  obtain ⟨hlo, hhi, hend⟩ := getElem?_trailer hlayout
  have hseq := reduceSeq_toNat seq
  subst hlayout
  refine ⟨by simp, rfl, ⟨_, rfl, ?_⟩, ⟨_, rfl, hseq, by omega⟩, rfl, bodyOf_layout .., ⟨?_, ?_⟩, hend⟩
  · simp [lengthByte_toNat (shapeOk_le hshape)]
  · exact congrArg (crcOf s) (spanOf_layout ..).symm
  · exact ⟨_, _, hlo, hhi, toNat_lo8 _, toNat_hi8 _⟩

/-- Settles O6: the header carries the reduced `seq`, and reducing twice is reducing once. -/
theorem encodersReduceSequenceNumber : Obligations.EncodersReduceSequenceNumber := by
  refine fun t seq body s => ⟨?_, fun hadmits => ?_⟩
  · rw [exec_encInstr, exec_encInstr, ← encodeResponse_reduceSeq]
    rfl
  · have hanswers := answers_framed_of_shapeOk ((shapeOk_iff_shapeAdmits t body.length).mpr hadmits) seq s
    exact ⟨_, _, hanswers, rfl, rfl, fun h => congrArg some (reduceSeq_of_lt h), fun _ => rfl⟩

/-- Settles O8: each example's checksum, evaluated shift by shift, gives its trailer and so its frame. -/
theorem workedEncodeExamples : Obligations.WorkedEncodeExamples := by
  intro s hs
  refine ⟨answers_of_defaultConfig hs (t := .negotiate) ?_ ?_ ?_,
    answers_of_defaultConfig hs (t := .fileHeader) ?_ ?_ ?_, answers_of_defaultConfig hs (t := .data) ?_ ?_ ?_,
    answers_of_defaultConfig hs (t := .endOfFile) ?_ ?_ ?_,
    answers_of_defaultConfig hs (t := .endOfTransmission) ?_ ?_ ?_,
    answers_of_defaultConfig hs (t := .ack) ?_ ?_ ?_, answers_of_defaultConfig hs (t := .nak) ?_ ?_ ?_⟩ <;>
    simp [shapeOk, maxBody, trailer, reduceSeq, seqModulus, typeCode, crc16Default, byteMsb_eq_eight_shifts,
      shiftMsb_eq_ite_toNat]

end Sys2Proof.Proofs
end

section
/-! SUPPORT. `DEC` of every byte string: the size tests, then the verdict on the raw fields, one lemma per way it can
come out (R120, R121), and what the raw fields of a message are. -/

namespace Sys2Proof.Machine

open Statements

/-- `DEC` gives its response and does nothing else (R121, R135). -/
theorem answers_dec (msg : Bytes) (s : State) : Answers (.dec msg) s (decodeFrame (paramsOf s.config) msg) := rfl

theorem answers_dec_of_eq {msg : Bytes} {s : State} {r : Response} (h : decodeFrame (paramsOf s.config) msg = r) :
    Answers (.dec msg) s r := h ▸ answers_dec msg s

theorem eq_decodeFrame_of_answers_dec {msg : Bytes} {s : State} {r : Response} (h : Answers (.dec msg) s r) :
    r = decodeFrame (paramsOf s.config) msg :=
  response_eq_of_answers (answers_dec msg s) h rfl

/-- The last three tests of R120: checksum, type and shape, in this order. -/
def verdict (raw : RawFields) : Status := if raw.crcOk then typeAndShape raw else .badCrc

theorem verdict_of_crcOk_eq_false {raw : RawFields} (hcrc : raw.crcOk = false) : verdict raw = .badCrc := by
  simp [verdict, hcrc]

theorem verdict_of_unknownType {raw : RawFields} (hcrc : raw.crcOk = true) (htype : raw.type ∉ sevenCodes) :
    verdict raw = .badType := by
  simp [verdict, hcrc, typeAndShape, typeOfCode_eq_none.mpr htype]

theorem verdict_of_known {raw : RawFields} {t : FrameType} (hcrc : raw.crcOk = true) (htype : raw.type = typeCode t) :
    verdict raw = if shapeOk t raw.rbody.length then .ok else .badBody := by
  simp [verdict, hcrc, typeAndShape_of_known htype]

theorem verdict_of_not_shapeAdmits {raw : RawFields} (hcrc : raw.crcOk = true) (htype : raw.type ∈ sevenCodes)
    (hshape : ¬ shapeAdmits raw.type raw.rbody.length) : verdict raw = .badBody := by
  obtain ⟨t, ht⟩ := mem_sevenCodes.mp htype
  rw [verdict_of_known hcrc ht, if_neg]
  rwa [shapeOk_iff_shapeAdmits, ← ht]

theorem verdict_of_shapeAdmits {raw : RawFields} (hcrc : raw.crcOk = true)
    (hshape : shapeAdmits raw.type raw.rbody.length) : verdict raw = .ok := by
  obtain ⟨t, ht⟩ := mem_sevenCodes.mp (mem_sevenCodes_of_shapeAdmits hshape)
  rw [verdict_of_known hcrc ht, if_pos]
  rwa [shapeOk_iff_shapeAdmits, ← ht]

/-- The four verdicts, each with the tests that were passed and the one that failed. -/
theorem verdict_cases (raw : RawFields) :
    (raw.crcOk = false ∧ verdict raw = .badCrc) ∨
    (raw.crcOk = true ∧ raw.type ∉ sevenCodes ∧ verdict raw = .badType) ∨
    (raw.crcOk = true ∧ raw.type ∈ sevenCodes ∧ ¬ shapeAdmits raw.type raw.rbody.length ∧
      verdict raw = .badBody) ∨
    (raw.crcOk = true ∧ shapeAdmits raw.type raw.rbody.length ∧ verdict raw = .ok) := by
  cases hcrc : raw.crcOk with
  | false => exact .inl ⟨rfl, verdict_of_crcOk_eq_false hcrc⟩
  | true =>
    by_cases htype : raw.type ∈ sevenCodes
    · by_cases hshape : shapeAdmits raw.type raw.rbody.length
      · exact .inr (.inr (.inr ⟨rfl, hshape, verdict_of_shapeAdmits hcrc hshape⟩))
      · exact .inr (.inr (.inl ⟨rfl, htype, hshape, verdict_of_not_shapeAdmits hcrc htype hshape⟩))
    · exact .inr (.inl ⟨rfl, htype, verdict_of_unknownType hcrc htype⟩)

/-- The verdict reads the checksum test, the type byte and the length of the body, and no flag (R123). -/
theorem verdict_congr {raw raw' : RawFields} (hcrc : raw.crcOk = raw'.crcOk) (htype : raw.type = raw'.type)
    (hlength : raw.rbody.length = raw'.rbody.length) : verdict raw = verdict raw' := by
  simp only [verdict, typeAndShape, hcrc, htype, hlength]

theorem decodeFrame_of_short (p : Params) {msg : Bytes} (h : msg.length < 7) :
    decodeFrame p msg = bareResponse .tooShort := if_pos h

theorem decodeFrame_of_long (p : Params) {msg : Bytes} (h : 257 < msg.length) :
    decodeFrame p msg = bareResponse .tooLong :=
  (if_neg (Nat.not_lt_of_le (Nat.le_trans (by decide) h.le))).trans (if_pos h)

/-- A message of an admitted size gets the verdict on its raw fields, with these fields (R120). -/
theorem decodeFrame_of_size (p : Params) {msg : Bytes} (hmin : 7 ≤ msg.length) (hmax : msg.length ≤ 257) :
    decodeFrame p msg = rawResponse (verdict (rawFields p msg)) (rawFields p msg) := by
  rcases sizeAndChecksum_cases p msg typeAndShape with
    ⟨hshort, -⟩ | ⟨hlong, -⟩ | ⟨-, -, hcrc, h⟩ | ⟨-, -, hcrc, h⟩
  · omega
  · omega
  · rw [verdict_of_crcOk_eq_false hcrc]
    exact h
  · rw [verdict, if_pos hcrc]
    exact h

/-- Everything `DEC` can answer. -/
theorem decodeFrame_cases (p : Params) (msg : Bytes) :
    (msg.length < 7 ∧ decodeFrame p msg = bareResponse .tooShort) ∨
    (257 < msg.length ∧ decodeFrame p msg = bareResponse .tooLong) ∨
    (7 ≤ msg.length ∧ msg.length ≤ 257 ∧
      decodeFrame p msg = rawResponse (verdict (rawFields p msg)) (rawFields p msg)) := by
  rcases Nat.lt_or_ge msg.length 7 with hshort | hmin
  · exact .inl ⟨hshort, decodeFrame_of_short p hshort⟩
  · rcases Nat.lt_or_ge 257 msg.length with hlong | hmax
    · exact .inr (.inl ⟨hlong, decodeFrame_of_long p hlong⟩)
    · exact .inr (.inr ⟨hmin, hmax, decodeFrame_of_size p hmin hmax⟩)

/-- Raw fields that `DEC` delivers are those of the message, whose size passed, and the status is their verdict. -/
theorem of_decodeFrame_raw {p : Params} {msg : Bytes} {raw : RawFields} (h : (decodeFrame p msg).raw = some raw) :
    7 ≤ msg.length ∧ msg.length ≤ 257 ∧ raw = rawFields p msg ∧ (decodeFrame p msg).status = verdict raw := by
  rcases decodeFrame_cases p msg with ⟨-, hr⟩ | ⟨-, hr⟩ | ⟨hmin, hmax, hr⟩
  · rw [hr] at h; cases h
  · rw [hr] at h; cases h
  · rw [hr] at h
    cases h
    exact ⟨hmin, hmax, rfl, congrArg Response.status hr⟩

/-- The flags as the number whose bits they are (R123). -/
theorem packFlags_eq_ofNat (a b c d : Bool) :
    packFlags a b c d =
      BitVec.ofNat 4 ((if a then 1 else 0) + (if b then 2 else 0) + (if c then 4 else 0) + (if d then 8 else 0)) := by
  revert a b c d
  decide

theorem received_eq_ofLoHi (lo hi : Byte) : received lo hi = ofLoHi lo hi := by
  rw [received, ← toNat_ofLoHi, BitVec.ofNat_toNat, BitVec.setWidth_eq]

/-- The model's raw fields are those the statements write out in arithmetic (R120). -/
theorem rawFields_eq_decFields (s : State) (m l q t : Byte) (body : Bytes) (lo hi e : Byte) :
    rawFields (paramsOf s.config) (m :: l :: q :: t :: (body ++ [lo, hi, e])) = decFields s m l q t body lo hi e := by
  rw [rawFields_layout, packFlags_eq_ofNat]
  simp only [decFields, received_eq_ofLoHi, beq_eq_decide, bne_iff_ne, ne_eq, ite_not, decide_eq_true_eq,
    ← Nat.not_lt]
  rfl

/-- What `DEC` answers to a header, a body and a trailer (R120). -/
theorem answers_dec_layout (m l q t : Byte) {body : Bytes} (lo hi e : Byte) (s : State) (h : body.length ≤ 250) :
    Answers (.dec (m :: l :: q :: t :: (body ++ [lo, hi, e]))) s
      (rawResponse (verdict (decFields s m l q t body lo hi e)) (decFields s m l q t body lo hi e)) := by
  rw [← rawFields_eq_decFields, ← decodeFrame_of_size]
  · exact answers_dec _ s
  · simp
  · simp; omega

/-- What each flag of a message's raw fields reports (R123). -/
theorem rawFields_flags_getLsbD (p : Params) (msg : Bytes) :
    ((rawFields p msg).flags.getLsbD 0 = true ↔ (msg.getD 1 0).toNat ≠ msg.length - 2) ∧
    ((rawFields p msg).flags.getLsbD 1 = true ↔ msg.getD 0 0 ≠ p.startMark) ∧
    ((rawFields p msg).flags.getLsbD 2 = true ↔ msg.getD (msg.length - 1) 0 ≠ p.endMark) ∧
    ((rawFields p msg).flags.getLsbD 3 = true ↔ 64 ≤ (msg.getD 2 0).toNat) := by
  obtain ⟨hlength, hmark, hend, hrange⟩ :=
    packFlags_getLsbD (lenMismatch msg) (markMismatch p msg) (endMismatch p msg) (seqRange msg)
  simp only [rawFields, advisoryFlags, hlength, hmark, hend, hrange]
  exact ⟨bne_iff_ne, bne_iff_ne, bne_iff_ne, decide_eq_true_iff⟩

/-- The status depends on the size, the type byte and the checksum test, whatever the parameters (R123). -/
theorem decodeFrame_status_congr {p p' : Params} {msg msg' : Bytes} (hlength : msg.length = msg'.length)
    (htype : msg.getD 3 0 = msg'.getD 3 0)
    (hcrc : ∀ raw raw', (decodeFrame p msg).raw = some raw → (decodeFrame p' msg').raw = some raw' →
      raw.crcOk = raw'.crcOk) :
    (decodeFrame p msg).status = (decodeFrame p' msg').status := by
  rcases decodeFrame_cases p msg with ⟨hshort, hr⟩ | ⟨hlong, hr⟩ | ⟨hmin, hmax, hr⟩
  · rw [hr, decodeFrame_of_short p' (hlength ▸ hshort)]
  · rw [hr, decodeFrame_of_long p' (hlength ▸ hlong)]
  · have hr' := decodeFrame_of_size p' (hlength ▸ hmin) (hlength ▸ hmax)
    rw [hr, hr'] at hcrc ⊢
    exact verdict_congr (hcrc _ _ rfl rfl) htype (by simp only [rawFields, length_bodyOf, hlength])

end Sys2Proof.Machine
end

section
/-! SUPPORT. The packet value of a message (R124, R137). -/

namespace Sys2Proof.Machine

open Statements

/-- The packet value of a type, a sequence number and a body (R124). -/
def packetOfType (t : FrameType) (seq : Byte) (body : Bytes) : Packet :=
  match t with
  | .negotiate => .negotiate seq body
  | .fileHeader => .fileHeader seq body
  | .data => .data seq body
  | .endOfFile => .endOfFile seq
  | .endOfTransmission => .endOfTransmission seq
  | .ack => .ack seq
  | .nak => .nak seq

theorem packetOf_of_ok {r : Response} {raw : RawFields} {t : FrameType} (hok : r.status = .ok)
    (hraw : r.raw = some raw) (htype : raw.type = typeCode t) :
    packetOf r = some (packetOfType t raw.rseq raw.rbody) := by
  unfold packetOf
  rw [hok, hraw]
  simp only [typeOfCode_eq_some.mpr htype]
  cases t <;> rfl

theorem status_ok_of_packetOf_isSome {r : Response} (h : (packetOf r).isSome = true) : r.status = .ok := by
  unfold packetOf at h
  split at h
  · assumption
  · cases h

/-- An `OK` of `DEC` delivers raw fields, of a known type and its shape (R122). -/
theorem exists_raw_of_decodeFrame_ok {p : Params} {msg : Bytes} (hok : (decodeFrame p msg).status = .ok) :
    ∃ raw, (decodeFrame p msg).raw = some raw ∧ shapeAdmits raw.type raw.rbody.length := by
  rcases decodeFrame_cases p msg with ⟨-, hr⟩ | ⟨-, hr⟩ | ⟨-, -, hr⟩
  · rw [hr] at hok; cases hok
  · rw [hr] at hok; cases hok
  · rw [hr] at hok ⊢
    refine ⟨_, rfl, ?_⟩
    rcases verdict_cases (rawFields p msg) with ⟨-, hv⟩ | ⟨-, -, hv⟩ | ⟨-, -, -, hv⟩ | ⟨-, hshape, -⟩
    · exact absurd (hv.symm.trans hok) (by decide)
    · exact absurd (hv.symm.trans hok) (by decide)
    · exact absurd (hv.symm.trans hok) (by decide)
    · exact hshape

theorem decodePacket_isSome_iff (p : Params) (msg : Bytes) :
    (decodePacket p msg).isSome = true ↔ (decodeFrame p msg).status = .ok := by
  refine ⟨status_ok_of_packetOf_isSome, fun hok => ?_⟩
  obtain ⟨raw, hraw, hshape⟩ := exists_raw_of_decodeFrame_ok hok
  obtain ⟨t, htype⟩ := mem_sevenCodes.mp (mem_sevenCodes_of_shapeAdmits hshape)
  rw [decodePacket, packetOf_of_ok hok hraw htype]
  rfl

end Sys2Proof.Machine
end

section
/-! SUPPORT. The FRAME rows of messages with a good checksum (R125 to R131). -/

namespace Sys2Proof.Machine

open Statements

/-- With a good checksum the row of a type answers `OK` to its type's body lengths and `BAD_BODY` to others. -/
theorem answers_frameInstr_goodCrc {t : FrameType} {m l q lo hi : Byte} {body : Bytes} {s : State} {st : Status}
    (h : body.length ≤ 250) (hcrc : crcOf s ([m, l, q, typeCode t] ++ body) = received lo hi)
    (hst : (if shapeOk t body.length then .ok else .badBody) = st) (e : Byte) :
    Answers (frameInstr t m l q (body ++ [lo, hi, e])) s
      { status := st, raw := some (decFields s m l q (typeCode t) body lo hi e) } := by
  subst hst
  have hanswers := answers_dec_layout m l q (typeCode t) lo hi e s h
  rw [verdict_of_known (t := t) (decide_eq_true hcrc) rfl] at hanswers
  exact (exec_frameInstr ..).trans hanswers

/-- Eleven bytes are an option record, field by field (R70). -/
theorem optionRecord?_of_length {b : Bytes} (h : b.length = 11) :
    optionRecord? b = some
      { maxl := b.getD 0 0, time := b.getD 1 0, npad := b.getD 2 0, padc := b.getD 3 0,
        eol := b.getD 4 0, qctl := b.getD 5 0, qbin := b.getD 6 0, chkt := b.getD 7 0,
        rept := b.getD 8 0, capa := b.getD 9 0, reserved := b.getD 10 0 } := by
  match b, h with
  | [_, _, _, _, _, _, _, _, _, _, _], _ => rfl

end Sys2Proof.Machine
end

section
/-! SUPPORT. Decoding a frame as it was encoded, and with other marks (R133, R233). -/

namespace Sys2Proof.Machine

open Statements

/-- The header and body of a frame: what its checksum covers (R69, R100). -/
def frameSpan (p : Params) (t : FrameType) (seq : Byte) (body : Bytes) : Bytes :=
  p.startMark :: BitVec.ofNat 8 (body.length + 5) :: reduceSeq seq :: typeCode t :: body

@[simp] theorem length_frameSpan (p : Params) (t : FrameType) (seq : Byte) (body : Bytes) :
    (frameSpan p t seq body).length = body.length + 4 := rfl

theorem encodeFrame_snd (p : Params) (t : FrameType) (seq : Byte) (body : Bytes) :
    (encodeFrame p t seq body).2 = p.crc16 (frameSpan p t seq body) := by
  rw [encodeFrame_eq]
  rfl

theorem encodeFrame_fst (p : Params) (t : FrameType) (seq : Byte) (body : Bytes) :
    (encodeFrame p t seq body).1 = frameSpan p t seq body ++
      [lo8 (p.crc16 (frameSpan p t seq body)), hi8 (p.crc16 (frameSpan p t seq body)), p.endMark] := by
  rw [encodeFrame_eq]
  rfl

/-- A frame of an admitted body is `OK` whatever its two marks, which only the flags report: the checksum is taken
over the start-mark it has (R100, R120, R233). -/
theorem decodeFrame_of_marks (p : Params) {t : FrameType} {body : Bytes} (hshape : shapeOk t body.length = true)
    (seq m e : Byte) :
    let span := m :: BitVec.ofNat 8 (body.length + 5) :: reduceSeq seq :: typeCode t :: body
    decodeFrame p (span ++ [lo8 (p.crc16 span), hi8 (p.crc16 span), e]) =
      rawResponse .ok (goodFields (typeCode t) (reduceSeq seq) (BitVec.ofNat 8 (body.length + 5)) body (p.crc16 span)
        (packFlags false (m != p.startMark) (e != p.endMark) false)) := by
  intro span
  have hbody := shapeOk_le hshape
  have hseq : decide (64 ≤ (reduceSeq seq).toNat) = false :=
    decide_eq_false (by rw [reduceSeq_toNat]; exact Nat.not_le_of_lt (Nat.mod_lt _ (by decide)))
  have hraw : rawFields p (span ++ [lo8 (p.crc16 span), hi8 (p.crc16 span), e]) =
      goodFields (typeCode t) (reduceSeq seq) (BitVec.ofNat 8 (body.length + 5)) body (p.crc16 span)
        (packFlags false (m != p.startMark) (e != p.endMark) false) := by
    refine (rawFields_layout ..).trans ?_
    simp only [ofLoHi_lo8_hi8, span, beq_self_eq_true, lengthByte_toNat hbody, bne_self_eq_false, hseq]
    rfl
  rw [decodeFrame_of_size, hraw, verdict_of_known (t := t) rfl rfl]
  · simp only [goodFields, hshape, if_true]
  · simp [span]
  · simp [span]; omega

/-- The raw fields of a frame as it was encoded (R133). -/
def encodedFields (p : Params) (t : FrameType) (seq : Byte) (body : Bytes) : RawFields :=
  goodFields (typeCode t) (reduceSeq seq) (BitVec.ofNat 8 (body.length + 5)) body (encodeFrame p t seq body).2 0b0000#4

/-- The round trip (R133). -/
theorem decodeFrame_encodeFrame (p : Params) {t : FrameType} {body : Bytes} (hshape : shapeOk t body.length = true)
    (seq : Byte) :
    decodeFrame p (encodeFrame p t seq body).1 = rawResponse .ok (encodedFields p t seq body) := by
  rw [encodedFields, encodeFrame_fst, encodeFrame_snd, frameSpan, decodeFrame_of_marks p hshape]
  simp only [bne_self_eq_false]
  rfl

/-- An encoder answers `OK` with the frame and its checksum when the body is of its type's shape (R101). -/
theorem answers_encodedResponse {t : FrameType} {body : Bytes} (hshape : shapeOk t body.length = true) (seq : Byte)
    (s : State) : Answers (encInstr t seq body) s
      (encodedResponse (encodeFrame (paramsOf s.config) t seq body).1
        (encodeFrame (paramsOf s.config) t seq body).2) := by
  have hanswers := answers_encInstr t seq body s
  rwa [encodeResponse, if_pos hshape] at hanswers

end Sys2Proof.Machine
end

section
/-! SUPPORT. One inverted bit (R134): where it falls in a frame, and that a checksum that takes its bytes in one by
one, losing nothing of the register or the byte, detects it (R155 a). -/

namespace Sys2Proof.Machine

open Statements

@[simp] theorem length_flipBit (s : Bytes) (i k : Nat) : (flipBit s i k).length = s.length := List.length_set

@[simp] theorem flipBit_cons_zero (b : Byte) (s : Bytes) (k : Nat) :
    flipBit (b :: s) 0 k = (b ^^^ (1#8 <<< k)) :: s := rfl

@[simp] theorem flipBit_cons_succ (b : Byte) (s : Bytes) (i k : Nat) :
    flipBit (b :: s) (i + 1) k = b :: flipBit s i k := rfl

theorem flipBit_append_left {s : Bytes} {i : Nat} (h : i < s.length) (s' : Bytes) (k : Nat) :
    flipBit (s ++ s') i k = flipBit s i k ++ s' := by
  simp only [flipBit, List.set_append_left _ _ h, List.getD_append _ _ _ _ h]

theorem flipBit_append_right (s s' : Bytes) (i k : Nat) :
    flipBit (s ++ s') (s.length + i) k = s ++ flipBit s' i k := by
  simp [flipBit, List.set_append_right, List.getElem?_append_right]

theorem flippedByte_ne (b : Byte) {k : Nat} (hk : k < 8) : b ^^^ (1#8 <<< k) ≠ b := by
  have hbit : ∀ k < 8, 1#8 <<< k ≠ 0#8 := by decide
  intro h
  refine hbit k hk ((BitVec.xor_right_inj b).mp ?_)
  rw [h, BitVec.xor_zero]

/-- A fold that keeps apart the registers a byte is taken into keeps apart the registers a string is taken into. -/
theorem foldl_injective {f : Word → Byte → Word} (hreg : ∀ b, Function.Injective fun c => f c b) (s : Bytes) :
    Function.Injective fun c => s.foldl f c := by
  induction s with
  | nil => exact fun _ _ h => h
  | cons b s ih => exact ih.comp (hreg b)

theorem detectsSingleBit_foldl {f : Word → Byte → Word} (hreg : ∀ b, Function.Injective fun c => f c b)
    (hbyte : ∀ c, Function.Injective (f c)) (init : Word) : DetectsSingleBit fun s => s.foldl f init := by
  intro s i k hi hk
  induction s generalizing i init with
  | nil => cases hi
  | cons b s ih =>
    cases i with
    | zero => exact fun h => flippedByte_ne b hk (hbyte init (foldl_injective hreg s h))
    | succ i => exact ih (f init b) i (Nat.lt_of_succ_lt_succ hi)

/-- The byte goes whole into the top of the register, so taking it in loses nothing of it either. -/
theorem byteMsb_injective_byte (c : Word) : Function.Injective (byteMsb c) := by
  intro a b h
  have htop := (BitVec.xor_right_inj c).mp (shiftMsb_injective.iterate 8 h)
  have htoNat := congrArg BitVec.toNat htop
  have := a.isLt
  have := b.isLt
  simp only [BitVec.toNat_shiftLeft, BitVec.toNat_setWidth, Nat.shiftLeft_eq] at htoNat
  exact BitVec.eq_of_toNat_eq (by omega)

theorem detectsSingleBit_crc16Default : DetectsSingleBit crc16Default :=
  detectsSingleBit_foldl byteMsb_injective byteMsb_injective_byte _

section Trailer
variable (p : Params) (span : Bytes) (lo hi e : Byte)

@[simp] theorem spanOf_append_trailer : spanOf (span ++ [lo, hi, e]) = span := by
  simp [spanOf, slice, trailerLength]

@[simp] theorem trailerCrc_append_trailer : trailerCrc (span ++ [lo, hi, e]) = ofLoHi lo hi := by
  simp [trailerCrc, byteAt]

/-- A message whose trailer does not hold the checksum of what stands before it is `BAD_CRC` (R120). -/
theorem decodeFrame_of_crc_ne {span : Bytes} {lo hi : Byte} (hmin : 4 ≤ span.length) (hmax : span.length ≤ 254)
    (hne : p.crc16 span ≠ ofLoHi lo hi) :
    decodeFrame p (span ++ [lo, hi, e]) = rawResponse .badCrc (rawFields p (span ++ [lo, hi, e])) := by
  rw [decodeFrame_of_size, verdict_of_crcOk_eq_false]
  · simpa [rawFields] using hne
  · simp; omega
  · simp; omega

end Trailer

section Flipped
variable (p : Params) {t : FrameType} {body : Bytes} (hshape : shapeOk t body.length = true) (seq : Byte) {k : Nat}
  (hk : k < 8)
include hshape hk

/-- R134 (a): an inverted bit of the end-mark sets `END_MISMATCH` and does nothing else. -/
theorem decodeFrame_flipBit_endMark :
    decodeFrame p (flipBit (encodeFrame p t seq body).1 (body.length + 6) k) =
      rawResponse .ok { encodedFields p t seq body with flags := 0b0100#4 } := by
  have hend : (p.endMark ^^^ (1#8 <<< k) != p.endMark) = true := bne_iff_ne.mpr (flippedByte_ne _ hk)
  rw [encodeFrame_fst, show body.length + 6 = (frameSpan p t seq body).length + 2 from rfl, flipBit_append_right]
  simp only [flipBit_cons_succ, flipBit_cons_zero, encodedFields, encodeFrame_snd, frameSpan]
  rw [decodeFrame_of_marks p hshape, hend]
  simp only [bne_self_eq_false]
  rfl

/-- R134 (b): an inverted bit of a checksum byte is `BAD_CRC`; the checksum found changes, the one recomputed not. -/
theorem decodeFrame_flipBit_checksum {j : Nat} (hj : j = body.length + 4 ∨ j = body.length + 5) :
    ∃ raw, decodeFrame p (flipBit (encodeFrame p t seq body).1 j k) = rawResponse .badCrc raw ∧
      raw.crcRx ≠ (encodeFrame p t seq body).2 ∧ raw.crcCalc = (encodeFrame p t seq body).2 := by
  have hbody := shapeOk_le hshape
  obtain ⟨lo, hi, hflip, hne⟩ : ∃ lo hi, flipBit (encodeFrame p t seq body).1 j k =
      frameSpan p t seq body ++ [lo, hi, p.endMark] ∧ ofLoHi lo hi ≠ (encodeFrame p t seq body).2 := by
    rw [encodeFrame_fst, encodeFrame_snd]
    generalize p.crc16 (frameSpan p t seq body) = c
    rcases hj with rfl | rfl
    · refine ⟨lo8 c ^^^ (1#8 <<< k), hi8 c, flipBit_append_right _ _ 0 k, fun h => ?_⟩
      exact flippedByte_ne (lo8 c) hk (by simpa using congrArg lo8 h)
    · refine ⟨lo8 c, hi8 c ^^^ (1#8 <<< k), flipBit_append_right _ _ 1 k, fun h => ?_⟩
      exact flippedByte_ne (hi8 c) hk (by simpa using congrArg hi8 h)
  rw [hflip]
  rw [encodeFrame_snd] at hne ⊢
  refine ⟨_, decodeFrame_of_crc_ne p _ (by simp) (by simpa using hbody) hne.symm, ?_, ?_⟩
  · simpa [rawFields] using hne
  · simp [rawFields]

/-- R134 (c): an inverted bit of the header or the body is `BAD_CRC` when the checksum detects single bits. -/
theorem decodeFrame_flipBit_span (hdetects : DetectsSingleBit p.crc16) {j : Nat} (hj : j ≤ body.length + 3) :
    ∃ raw, decodeFrame p (flipBit (encodeFrame p t seq body).1 j k) = rawResponse .badCrc raw := by
  have hbody := shapeOk_le hshape
  have hspan : j < (frameSpan p t seq body).length := Nat.lt_succ_of_le hj
  rw [encodeFrame_fst, flipBit_append_left hspan]
  refine ⟨_, decodeFrame_of_crc_ne p _ (by simp) (by simpa using hbody) ?_⟩
  rw [ofLoHi_lo8_hi8]
  exact hdetects _ j k hspan hk

end Flipped

end Sys2Proof.Machine
end

section
/-! PROOF. The statements about the decode family. -/

namespace Sys2Proof.Proofs

open Sys2Proof Sys2Proof.Machine Sys2Proof.Statements

/-- Settles O17: the encoder writes what the decoder tests, and both sides have the same parameters. -/
theorem encodedFrameDecodesToItsPacket : Obligations.EncodedFrameDecodesToItsPacket := by
  refine ⟨fun p t seq body hadmits => ?_, fun t seq body s₁ s₂ hconfig hadmits => ?_⟩
  · exact decodeFrame_encodeFrame p ((shapeOk_iff_shapeAdmits t body.length).mpr hadmits) seq
  · have hshape := (shapeOk_iff_shapeAdmits t body.length).mpr hadmits
    exact ⟨_, _, answers_encodedResponse hshape seq s₁,
      answers_dec_of_eq (hconfig ▸ decodeFrame_encodeFrame _ hshape seq)⟩

/-- Settles O9: a message of an admitted size is a header, a body and a trailer, and its status is the verdict. -/
theorem decAnswersEveryMessage : Obligations.DecAnswersEveryMessage := by
  intro s
  refine ⟨fun msg h => ?_, fun msg h => ?_, fun msg hmin hmax => ?_, fun m l q t body lo hi e hbody => ?_⟩
  · exact answers_dec_of_eq (decodeFrame_of_short _ h)
  · exact answers_dec_of_eq (decodeFrame_of_long _ h)
  · obtain ⟨m, l, q, t, body, lo, hi, e, hmsg, hlength⟩ := exists_header_body_trailer hmin
    exact ⟨m, l, q, t, body, lo, hi, e, by omega, hmsg⟩
  · refine ⟨_, answers_dec_layout m l q t lo hi e s hbody, fun hne => ?_, fun heq => ?_⟩
    · exact verdict_of_crcOk_eq_false (decide_eq_false hne)
    · have hcrc : (decFields s m l q t body lo hi e).crcOk = true := decide_eq_true heq
      exact ⟨verdict_of_unknownType hcrc, verdict_of_not_shapeAdmits hcrc, verdict_of_shapeAdmits hcrc⟩

/-- Settles O10, by the three forms of an answer and, with raw fields, the four verdicts on them. -/
theorem decDeliversFieldsByStatus : Obligations.DecDeliversFieldsByStatus := by
  intro msg s
  refine ⟨_, answers_dec msg s, ?_⟩
  rcases decodeFrame_cases (paramsOf s.config) msg with ⟨hshort, hr⟩ | ⟨hlong, hr⟩ | ⟨hmin, hmax, hr⟩
  · have hmax : msg.length ≤ 257 := by omega
    simp [hr, bareResponse, hshort, hmax]
  · have hmin : 7 ≤ msg.length := by omega
    simp [hr, bareResponse, hlong, hmin]
  · rw [hr]
    rcases verdict_cases (rawFields (paramsOf s.config) msg) with
      ⟨hcrc, hv⟩ | ⟨hcrc, htype, hv⟩ | ⟨hcrc, htype, hshape, hv⟩ | ⟨hcrc, hshape, hv⟩ <;>
      simp [rawResponse, *]

/-- Settles O11: each flag is read back from the packing, and the verdict does not read the flags. -/
theorem advisoryFlagsNeverChangeStatus : Obligations.AdvisoryFlagsNeverChangeStatus := by
  refine ⟨fun msg s => ⟨_, answers_dec msg s, fun raw hraw => ?_⟩, fun msg msg' s s' r r' hr hr' => ?_⟩
  · obtain ⟨-, -, rfl, -⟩ := of_decodeFrame_raw hraw
    exact rawFields_flags_getLsbD (paramsOf s.config) msg
  · obtain rfl := eq_decodeFrame_of_answers_dec hr
    obtain rfl := eq_decodeFrame_of_answers_dec hr'
    exact decodeFrame_status_congr

/-- Settles O12: an `OK` has raw fields of one of the seven types, and the type names the packet value. -/
theorem packetValueExactlyWhenOk : Obligations.PacketValueExactlyWhenOk := by
  refine fun p msg => ⟨decodePacket_isSome_iff p msg, fun raw hok hraw => ?_⟩
  have hpacket : ∀ t, raw.type = typeCode t → decodePacket p msg = some (packetOfType t raw.rseq raw.rbody) :=
    fun t => packetOf_of_ok hok hraw
  obtain ⟨raw', hraw', hshape⟩ := exists_raw_of_decodeFrame_ok hok
  obtain rfl : raw = raw' := Option.some.inj (hraw.symm.trans hraw')
  refine ⟨fun htype => ⟨hpacket .negotiate htype, ?_⟩, hpacket .fileHeader, hpacket .data, hpacket .endOfFile,
    hpacket .endOfTransmission, hpacket .ack, hpacket .nak⟩
  simpa [shapeAdmits, htype] using hshape

/-- Settles O13: the shape of `S` is 11 bytes, and eleven bytes are an option record. -/
theorem frameSDeliversOptionRecord : Obligations.FrameSDeliversOptionRecord := by
  intro m l q body lo hi e s hbody hcrc
  refine ⟨fun h => ⟨?_, optionRecord?_of_length h⟩, fun h => ?_⟩
  · exact answers_frameInstr_goodCrc (t := .negotiate) hbody hcrc (if_pos (beq_iff_eq.mpr h)) e
  · exact answers_frameInstr_goodCrc (t := .negotiate) hbody hcrc (if_neg (mt beq_iff_eq.mp h)) e

/-- Settles O14: the shape of `F` and of `D` is at most 250 bytes, which the size tests ensure. -/
theorem frameFAndFrameDAlwaysOk : Obligations.FrameFAndFrameDAlwaysOk := by
  intro m l q body lo hi e s hbody
  refine ⟨fun hcrc => ?_, fun hcrc => ?_⟩
  · exact answers_frameInstr_goodCrc (t := .fileHeader) hbody hcrc (if_pos (decide_eq_true hbody)) e
  · exact answers_frameInstr_goodCrc (t := .data) hbody hcrc (if_pos (decide_eq_true hbody)) e

/-- Settles O15: the shape of `Z`, `B`, `Y` and `N` is the empty body. -/
theorem emptyFramesOkOnlyAtSevenBytes : Obligations.EmptyFramesOkOnlyAtSevenBytes := by
  intro m l q body lo hi e s st hbody hempty hfull
  have hst : (if (body.length == 0) = true then Status.ok else .badBody) = st := by
    split_ifs with h
    · exact (hempty (List.length_eq_zero_iff.mp (beq_iff_eq.mp h))).symm
    · exact (hfull fun hnil => h (by rw [hnil]; rfl)).symm
  exact ⟨fun hcrc => answers_frameInstr_goodCrc (t := .endOfFile) hbody hcrc hst e,
    fun hcrc => answers_frameInstr_goodCrc (t := .endOfTransmission) hbody hcrc hst e,
    fun hcrc => answers_frameInstr_goodCrc (t := .ack) hbody hcrc hst e,
    fun hcrc => answers_frameInstr_goodCrc (t := .nak) hbody hcrc hst e⟩

/-- Settles O18, by where the bit falls; `CRC16_DEFAULT` takes in byte after byte and loses nothing. -/
theorem singleBitCorruptionIsDetected : Obligations.SingleBitCorruptionIsDetected := by
  refine ⟨detectsSingleBit_crc16Default, fun t seq body s k hadmits hk => ?_⟩
  have hshape := (shapeOk_iff_shapeAdmits t body.length).mpr hadmits
  refine ⟨_, _, encodedFields (paramsOf s.config) t seq body, answers_encodedResponse hshape seq s,
    answers_dec_of_eq (decodeFrame_encodeFrame _ hshape seq), ?_⟩
  rw [length_encodeFrame]
  refine ⟨?_, fun j hj => ?_, fun hdetects j hj => ?_⟩
  · exact answers_dec_of_eq (decodeFrame_flipBit_endMark _ hshape seq hk)
  · obtain ⟨raw, hdec, hrx, hcalc⟩ := decodeFrame_flipBit_checksum (paramsOf s.config) hshape seq hk hj
    exact ⟨raw, answers_dec_of_eq hdec, hrx, hcalc⟩
  · obtain ⟨raw, hdec⟩ := decodeFrame_flipBit_span (paramsOf s.config) hshape seq hk hdetects hj
    exact ⟨raw, answers_dec_of_eq hdec⟩

/-- Settles O19: (a) and (b) are the size tests; the others are evaluated on the parameters they name. -/
theorem decCornerCases : Obligations.DecCornerCases := by
  refine ⟨fun s msg h => ?_, fun s msg h => ?_, fun s => ⟨fun hs => ?_, fun hs => ?_⟩⟩
  · exact answers_dec_of_eq (decodeFrame_of_short _ (by omega))
  · exact answers_dec_of_eq (decodeFrame_of_long _ (by omega))
  · have hdec : decodeFrame (paramsOf s.config) (List.replicate 7 0x00#8) =
        rawResponse .badCrc ⟨0x00#8, 0x00#8, 0x00#8, [], 0x0000#16, 0x84C0#16, false, 0b0111#4⟩ := by
      rw [hs]
      decide +kernel
    exact ⟨_, answers_dec_of_eq hdec, rfl⟩
  · refine ⟨answers_dec_of_eq ?_, answers_dec_of_eq ?_, answers_dec_of_eq ?_, answers_dec_of_eq ?_,
      answers_dec_of_eq ?_⟩ <;> rw [hs] <;> decide +kernel

end Sys2Proof.Proofs
end

section
/-! SUPPORT. The checksum functions of R153 to R157: the byte-at-a-time form of the register, which gives the residue
too, linearity over strings, that the reflected form loses nothing of a byte, and evaluation on literal strings. -/

namespace Sys2Proof.Machine

/-- While the top bit is clear the polynomial stays out of a shift (R153). -/
theorem shiftMsb_of_lt {c : Word} (h : c.toNat < 0x8000) : shiftMsb c = c <<< 1 := by
  rw [shiftMsb_eq_ite_toNat, if_neg (Nat.not_le_of_lt h)]

theorem shiftMsb_iterate_of_lt {c : Word} {n : Nat} (h : c.toNat * 2 ^ n < 2 ^ 16) : shiftMsb^[n] c = c <<< n := by
  induction n with
  | zero => simp
  | succ n ih =>
    have hlt : c.toNat * 2 ^ n < 0x8000 := by
      rw [pow_succ, ← Nat.mul_assoc] at h
      omega
    rw [Function.iterate_succ_apply', ih (by omega), shiftMsb_of_lt, ← BitVec.shiftLeft_add]
    rw [BitVec.toNat_shiftLeft, Nat.shiftLeft_eq]
    exact (Nat.mod_le _ _).trans_lt hlt

/-- Eight shifts move the low byte to the top: no bit of it falls out on the way. -/
theorem shiftMsb_iterate_eight_byte (b : Byte) : shiftMsb^[8] (b.setWidth 16) = b.setWidth 16 <<< 8 := by
  apply shiftMsb_iterate_of_lt
  have := b.isLt
  rw [BitVec.toNat_setWidth_of_le (by decide)]
  omega

theorem setWidth_ushiftRight_eight (c : Word) : (c >>> 8).setWidth 8 = hi8 c :=
  BitVec.eq_of_toNat_eq (by simp [hi8])

theorem hi8_shiftLeft_eight (c : Word) : hi8 (c <<< 8) = lo8 c := by
  ext i hi
  simp [hi8, lo8, Nat.add_lt_add_left hi 8, Nat.lt_of_lt_of_le hi (Nat.le_add_right 8 8)]

/-- The register is its low byte, and above it its high byte. -/
theorem setWidth_lo8_xor_hi8 (c : Word) : (lo8 c).setWidth 16 ^^^ ((hi8 c).setWidth 16 <<< 8) = c := by
  apply BitVec.eq_of_getLsbD_eq
  intro i hi
  by_cases h : i < 8
  · simp [hi8, lo8, h, hi]
  · have hle := Nat.le_of_not_lt h
    simp [hi8, lo8, h, hi, Nat.sub_lt_right_of_lt_add hle hi, Nat.add_sub_of_le hle]

/-- Only the low byte of the register stays when it moves up by eight. -/
theorem setWidth_lo8_shiftLeft_eight (c : Word) : (lo8 c).setWidth 16 <<< 8 = c <<< 8 := by
  conv_rhs => rw [← setWidth_lo8_xor_hi8 c, BitVec.shiftLeft_xor_distrib, ← BitVec.shiftLeft_add,
    BitVec.shiftLeft_eq_zero (Nat.le_refl 16), BitVec.xor_zero]

theorem crcTableEntry_eq (i : Byte) : crcTableEntry i = shiftMsb^[8] (i.setWidth 16 <<< 8) := by
  rw [crcTableEntry, crc16Default, crcMsbFrom_cons, crcMsbFrom_nil, byteMsb, BitVec.zero_xor]

@[simp] theorem crcTableEntry_zero : crcTableEntry 0#8 = 0x0000#16 := by decide

/-- R154, one byte: the high byte of the register and the byte taken in meet before the shifts, the low byte of the
register only moves up. -/
theorem byteMsb_eq_byteByTable (c : Word) (b : Byte) : byteMsb c b = byteByTable c b := by
  have hmeet : c ^^^ (b.setWidth 16 <<< 8) = (lo8 c).setWidth 16 ^^^ ((hi8 c ^^^ b).setWidth 16 <<< 8) := by
    rw [BitVec.setWidth_xor, BitVec.shiftLeft_xor_distrib, ← BitVec.xor_assoc, setWidth_lo8_xor_hi8]
  calc byteMsb c b
      = shiftMsb^[8] ((lo8 c).setWidth 16) ^^^ shiftMsb^[8] ((hi8 c ^^^ b).setWidth 16 <<< 8) := by
        rw [byteMsb, hmeet, shiftMsb_iterate_xor]
    _ = (c <<< 8) ^^^ crcTableEntry (hi8 c ^^^ b) := by
        rw [shiftMsb_iterate_eight_byte, setWidth_lo8_shiftLeft_eight, crcTableEntry_eq]
    _ = byteByTable c b := by rw [byteByTable, setWidth_ushiftRight_eight]

theorem crc16ByTable_eq_crc16Default (s : Bytes) : crc16ByTable s = crc16Default s :=
  congrArg (List.foldl · 0x0000#16 s) (funext₂ fun c b => (byteMsb_eq_byteByTable c b).symm)

/-- The register's own high byte, taken in, cancels it. -/
theorem byteMsb_hi8 (c : Word) : byteMsb c (hi8 c) = c <<< 8 := by
  simp [byteMsb_eq_byteByTable, byteByTable, setWidth_ushiftRight_eight]

/-- The two bytes of the register cancel it, one after the other. -/
theorem byteMsb_hi8_lo8 (c : Word) : byteMsb (byteMsb c (hi8 c)) (lo8 c) = 0x0000#16 := by
  rw [byteMsb_hi8, ← hi8_shiftLeft_eight, byteMsb_hi8, ← BitVec.shiftLeft_add, BitVec.shiftLeft_eq_zero (by decide)]

theorem residueZero_crc16Default : ResidueZero crc16Default := by
  intro s
  rw [crc16Default, crcMsbFrom_append]
  exact byteMsb_hi8_lo8 _

/-- Linear in the initial register and the string together. -/
theorem crcMsbFrom_xorBytes (a b : Word) {s s' : Bytes} (h : s.length = s'.length) :
    crcMsbFrom (a ^^^ b) (xorBytes s s') = crcMsbFrom a s ^^^ crcMsbFrom b s' := by
  induction s generalizing a b s' with
  | nil =>
    obtain rfl := List.length_eq_zero_iff.mp h.symm
    rfl
  | cons x s ih =>
    cases s' with
    | nil => cases h
    | cons y s' =>
      rw [xorBytes, List.zipWith_cons_cons, crcMsbFrom_cons, byteMsb_xor]
      exact ih _ _ (Nat.succ.inj h)

theorem xorLinear_crc16Default : XorLinear crc16Default := fun _ _ h => crcMsbFrom_xorBytes 0x0000#16 0x0000#16 h

theorem crc16Default_zero_cons (s : Bytes) : crc16Default (0#8 :: s) = crc16Default s := by
  have hzero : byteMsb 0x0000#16 0#8 = 0x0000#16 := by decide
  rw [crc16Default, crcMsbFrom_cons, hzero, crc16Default]

theorem leadingZeroBlind_crc16Default : LeadingZeroBlind crc16Default := by
  refine ⟨crc16Default_zero_cons, fun n => ?_⟩
  induction n with
  | zero => rfl
  | succ n ih => rw [List.replicate_succ, crc16Default_zero_cons, ih]

/-- As `byteMsb_injective_byte`: the byte goes whole into the bottom of the reflected register. -/
theorem byteLsb_injective_byte (c : Word) : Function.Injective (byteLsb c) := by
  intro a b h
  have hbottom := (BitVec.xor_right_inj c).mp (shiftLsb_injective.iterate 8 h)
  simpa using congrArg (BitVec.setWidth 8) hbottom

theorem detectsSingleBit_crc16False : DetectsSingleBit crc16False :=
  detectsSingleBit_foldl byteMsb_injective byteMsb_injective_byte _

theorem detectsSingleBit_crc16Kermit : DetectsSingleBit crc16Kermit :=
  detectsSingleBit_foldl byteLsb_injective byteLsb_injective_byte _

/-- `f` takes in the bytes of `s` from `c` on and holds the registers `rs` on the way, one after each byte. -/
def goesThrough (f : Word → Byte → Word) : Word → Bytes → List Word → Bool
  | _, [], [] => true
  | c, b :: s, r :: rs => f c b == r && goesThrough f r s rs
  | _, _, _ => false

/-- A checksum is the last register on the way. Each step is checked from a literal register, so that `decide` never
has a longer computation to unfold than that of one byte. -/
theorem foldl_eq_getLastD_of_goesThrough {f : Word → Byte → Word} {c : Word} {s : Bytes} (rs : List Word)
    (h : goesThrough f c s rs = true) : s.foldl f c = rs.getLastD c := by
  induction s generalizing c rs with
  | nil =>
    cases rs with
    | nil => rfl
    | cons => cases h
  | cons b s ih =>
    cases rs with
    | nil => cases h
    | cons r rs =>
      obtain ⟨hr, hrs⟩ := (Bool.and_eq_true _ _).mp h
      rw [List.foldl_cons, beq_iff_eq.mp hr, ih rs hrs, List.getLastD_cons]

end Sys2Proof.Machine
end

section
/-! SUPPORT. What `CRC` answers, and what it answers of the span of an encoded frame (R152). -/

namespace Sys2Proof.Machine

open Statements

theorem answers_crc_of_le {msg : Bytes} (h : msg.length ≤ 257) (s : State) :
    Answers (.crc msg) s { status := .ok, crc := some (crcOf s msg) } := by
  have hresponse : checksumAnswer (paramsOf s.config) msg = checksumResponse (crcOf s msg) :=
    if_neg (Nat.not_lt_of_le h)
  exact congrArg (respond · s) hresponse

theorem answers_crc_of_lt {msg : Bytes} (h : 257 < msg.length) (s : State) :
    Answers (.crc msg) s { status := .tooLong } := by
  have hresponse : checksumAnswer (paramsOf s.config) msg = bareResponse .tooLong := if_pos h
  exact congrArg (respond · s) hresponse

/-- The checksum an encoder answers is that of its frame without the trailer, which is at most 254 bytes long
(R7, R100). -/
theorem crcOf_span_of_answers_encInstr {t : FrameType} {seq : Byte} {body frame : Bytes} {c : Word} {s : State}
    (h : Answers (encInstr t seq body) s { status := .ok, frame := some frame, crc := some c }) :
    (frame.take (frame.length - 3)).length ≤ 254 ∧ crcOf s (frame.take (frame.length - 3)) = c := by
  obtain ⟨hshape, hframed⟩ := framed_of_encInstr_ok h rfl rfl
  have hbody := shapeOk_le hshape
  obtain ⟨-, hframe, hcrc, -⟩ := Response.mk.inj hframed
  have hspan : spanOf frame = frameHeader s t seq body ++ body := by
    rw [Option.some.inj hframe, trailer_eq, spanOf_append_trailer]
  have htake : frame.take (frame.length - 3) = frameHeader s t seq body ++ body := hspan
  rw [htake]
  refine ⟨?_, (Option.some.inj hcrc).symm⟩
  simp only [frameHeader, List.length_append, List.length_cons, List.length_nil]
  omega

end Sys2Proof.Machine
end

section
/-! PROOF. The statements about the checksum family. -/

namespace Sys2Proof.Proofs

open Sys2Proof Sys2Proof.Machine Sys2Proof.Statements

/-- Settles O21: the size test, and that the span of a frame is within it. -/
theorem crcAnswersChecksumOfOperand : Obligations.CrcAnswersChecksumOfOperand := by
  intro s
  refine ⟨fun _ h => answers_crc_of_le h s, fun _ h => answers_crc_of_lt h s, fun t seq body frame c h => ?_⟩
  obtain ⟨hlength, hcrc⟩ := crcOf_span_of_answers_encInstr h
  have hanswers := answers_crc_of_le (hlength.trans (by decide)) s
  rwa [hcrc] at hanswers

/-- Settles O22: each of the three takes in byte after byte and loses nothing of the register or the byte. -/
theorem everyNamedChecksumDetectsSingleBit : Obligations.EveryNamedChecksumDetectsSingleBit :=
  ⟨detectsSingleBit_crc16Default, detectsSingleBit_crc16False, detectsSingleBit_crc16Kermit⟩

/-- Settles O23: one byte is linear, a zero byte leaves the zero register, and a register's own bytes cancel it. -/
theorem defaultChecksumIsLinearWithZeroResidue : Obligations.DefaultChecksumIsLinearWithZeroResidue :=
  ⟨xorLinear_crc16Default, leadingZeroBlind_crc16Default, residueZero_crc16Default⟩

/-- Settles O24: the two forms agree byte by byte; the listed entries are evaluated. -/
theorem tableFormComputesDefaultChecksum : Obligations.TableFormComputesDefaultChecksum :=
  ⟨crc16ByTable_eq_crc16Default, by decide⟩

/-- Settles O25: strings of one byte are evaluated, longer ones by the registers on the way, which for `[01 05 00 59]`
are those that R156 lists; a string of zeros is nothing to `CRC16_DEFAULT`. -/
theorem checksumCheckValues : Obligations.ChecksumCheckValues := by
  refine ⟨rfl, by decide, by decide, by decide, by decide, by decide, ?_, ?_, ?_, ?_, by decide,
    leadingZeroBlind_crc16Default.2 4, ?_, ?_, ?_, ?_, ?_, ?_⟩
  · exact foldl_eq_getLastD_of_goesThrough [0x2672#16, 0x20B5#16, 0x9752#16, 0xD789#16, 0x546C#16, 0x20E4#16,
      0x86D6#16, 0x9015#16, 0x31C3#16] (by decide)
  · exact foldl_eq_getLastD_of_goesThrough [0x1021#16, 0x6394#16] (by decide)
  · exact foldl_eq_getLastD_of_goesThrough [0x1021#16, 0x6394#16, 0xC8C5#16] (by decide)
  · exact foldl_eq_getLastD_of_goesThrough [0x1021#16, 0x6394#16, 0xC8C5#16, 0x5698#16] (by decide)
  · exact foldl_eq_getLastD_of_goesThrough [0xC782#16, 0x3DBA#16, 0x5BCE#16, 0x5349#16, 0x4560#16, 0x2EF4#16,
      0x7718#16, 0xA12B#16, 0x29B1#16] (by decide)
  · exact foldl_eq_getLastD_of_goesThrough [0xF1D1#16, 0x7E9B#16, 0x0459#16, 0xD258#16] (by decide)
  · exact foldl_eq_getLastD_of_goesThrough [0xE1F0#16, 0x1D0F#16, 0xCC9C#16, 0x84C0#16] (by decide)
  · exact foldl_eq_getLastD_of_goesThrough [0x200A#16, 0xBDEB#16, 0x5A78#16, 0x8832#16, 0x7437#16, 0x11FD#16,
      0x6947#16, 0x8B19#16, 0x2189#16] (by decide)
  · exact foldl_eq_getLastD_of_goesThrough [0x1189#16, 0x4E75#16, 0x2464#16, 0xEA42#16] (by decide)
  · exact foldl_eq_getLastD_of_goesThrough [0x0000#16, 0x0000#16, 0x0000#16, 0x0000#16] (by decide)

end Sys2Proof.Proofs
end

section
namespace Sys2Proof.Proofs
open Sys2Proof Sys2Proof.Machine Sys2Proof.Statements
/-- Settles O27: the value written and answered is `seqAfter` of the value read. -/
theorem seqNextAdvancesAndAnswersNewValue : Obligations.SeqNextAdvancesAndAnswersNewValue := fun s =>
  ⟨seqAfter (readSeq s), seqAfter_toNat _, exec_eq .seqNext s, hardwire_seqAfter _,
    fun h => (congrArg seqAfter h).trans rfl⟩

/-- Settles O26: wrapping around at 256 first makes no difference modulo 64, which divides it. -/
theorem nextIsSuccessorModulo64 : Obligations.NextIsSuccessorModulo64 := by
  refine ⟨seqAfter_toNat, fun c => ?_, rfl, rfl, rfl, rfl, rfl⟩
  have hwrap : (c.toNat + 1) % 256 % 64 = (c.toNat + 1) % 64 := Nat.mod_mod_of_dvd _ ⟨4, rfl⟩
  exact (seqAfter_toNat c).trans (hwrap.symm.trans (congrArg (· % 64) (BitVec.toNat_add c 1#8).symm))

/-- Settles O28: reading answers the hardwired value, which is below 64 and is `SEQ` itself when `SEQ` is. -/
theorem seqReadAnswersSeq : Obligations.SeqReadAnswersSeq := by
  refine ⟨fun s => ⟨exec_eq .seqRead s, Nat.le_of_lt_succ (readSeq_lt s), fun h => ?_⟩, fun c => ?_⟩
  · exact hardwire_of_lt (Nat.lt_succ_of_le h)
  · have hzero : readSeq (State.resetWith c) = 0#8 := hardwire_of_lt (Nat.zero_lt_succ 63)
    rw [← hzero]
    exact exec_eq .seqRead (State.resetWith c)

/-- Settles O39: reset writes 0 to `SEQ`, and the states after reset are built with 0. -/
theorem resetSetsSeqToZero : Obligations.ResetSetsSeqToZero :=
  ⟨fun _ _ h => step_reset h, rfl, resetWith_seq⟩

end Sys2Proof.Proofs
end
